-- ==== Sys2Proof/Word.lean ====
section
/-! DEFINITION. The word types of the core (rule R10: all words are unsigned, bit 0 is the least significant) and the number
domain of the throttle argument (rule R15). -/

namespace Sys2Proof

/-- One bit on the wire (rule R10). -/
abbrev Bit := BitVec 1
/-- A nibble: a CRC4 or a decoded GCR group (rules R82, R92). -/
abbrev U4 := BitVec 4
/-- A GCR group (rule R88). -/
abbrev U5 := BitVec 5
/-- A special command code, or a raw telemetry byte (rules R91, R111). -/
abbrev U8 := BitVec 8
/-- A command value, value11 (rule R83). -/
abbrev U11 := BitVec 11
/-- A DShotValue12 or a reply payload (rules R80, R89). -/
abbrev U12 := BitVec 12
/-- A DShotFrame16, a reply value, or a count of ticks (rules R81, R84, R89). -/
abbrev U16 := BitVec 16
/-- A GCR word (rule R88). -/
abbrev U20 := BitVec 20
/-- An NRZI word (rule R87). -/
abbrev U21 := BitVec 21

/-- The name the host gives to a standalone lease. -/
abbrev LeaseId := Nat
/-- The name the host gives to a scheduler instance (rule R248: the core itself knows no identifiers). -/
abbrev InstId := Nat

/-- `ThrottleInput = Q ∪ {NaN, +Inf, −Inf}` (rule R15, decision D1). -/
inductive ThrottleInput where
  | finite (q : Rat)
  | nan
  | posInf
  | negInf
  deriving DecidableEq, Repr

/-- A RunLengthSample as the operations take it: the HIGH runs and the LOW runs, in ticks (rules R85, R132). -/
structure RunSample where
  highRuns : List Nat
  lowRuns : List Nat
  deriving DecidableEq, Repr

end Sys2Proof
end

