-- ==== Sys2Proof/Syntax.lean ====
section
/-! DEFINITION. The operations and wire formats of spec/opcode_table.json, one constructor a row, in the table's order
(rules R95 to R97). -/

namespace Sys2Proof

/-- One row of spec/opcode_table.json with its operands. A wire-format row carries the fields of its pattern, the CRC field
among them (log entry 7); an operation carries the arguments of its signature (rule R95), the lease or the instance it is
issued on first. -/
inductive Instr where
  -- FRAME16 (rule R81)
  | dshotFrameThrottle (value11 : U11) (t : Bit) (crc : U4)
  /-- `code` is the low six bits of value11, whose upper five are 0 -/
  | dshotFrameSpecial (code : BitVec 6) (t : Bit) (crc : U4)
  -- REPLY16 (rules R90, R91)
  /-- `m` is the low eight bits of the mantissa; its ninth bit is 1 -/
  | replyErpm (e : BitVec 3) (m : U8) (crc : U4)
  | replyEdtTemperature (raw : U8) (crc : U4)
  | replyEdtVoltage (raw : U8) (crc : U4)
  | replyEdtCurrent (raw : U8) (crc : U4)
  /-- `ty` is the upper three bits of the telemetry-type code, whose lowest is 0 -/
  | replyEdtOther (ty : BitVec 3) (raw : U8) (crc : U4)
  -- NRZI21 (rule R87)
  | nrziWord (lead : Bit) (levels : U20)
  -- GCR5 (rule R92)
  | gcrNibble0
  | gcrNibble1
  | gcrNibble2
  | gcrNibble3
  | gcrNibble4
  | gcrNibble5
  | gcrNibble6
  | gcrNibble7
  | gcrNibble8
  | gcrNibble9
  | gcrNibbleA
  | gcrNibbleB
  | gcrNibbleC
  | gcrNibbleD
  | gcrNibbleE
  | gcrNibbleF
  -- OP (rule R96): PacketCodec, WaveformTranscoder, BDShotDecoder
  | encodeThrottle (x : ThrottleInput)
  | encodeSpecial (code : U8)
  | crc4 (p : U12)
  | buildFrame (value11 : U11) (t : Bit)
  | decodeAndValidate (frame16 : U16)
  | frameToPulses (frame16 : U16)
  | runsToBits (highRuns lowRuns : List Nat) (replyBitTicks : Nat)
  | decode (highRuns lowRuns : List Nat) (replyBitTicks : Nat)
  -- ChannelAllocator
  | allocAcquireAny
  | allocAcquireInRange (first last : Nat)
  | allocRelease (index : Nat)
  | allocCountFree
  | allocIsTaken (index : Nat)
  -- leases
  | leaseAcquireAny (lease : LeaseId)
  | leaseAcquireInRange (lease : LeaseId) (first last : Nat)
  | leaseRelease (lease : LeaseId)
  | leaseDestroy (lease : LeaseId)
  -- EscLinkScheduler
  | schedBegin (inst : InstId)
  | schedArm (inst : InstId) (on : Bool)
  | schedWriteNormalized (inst : InstId) (x : ThrottleInput)
  | schedSendSpecial (inst : InstId) (code : U8)
  | schedReadTelemetry (inst : InstId)
  | schedEnd (inst : InstId)
  -- selector 23, last in the table
  | leaseDisown (lease : LeaseId)
  deriving DecidableEq, Repr

end Sys2Proof
end

