-- ==== Sys2Proof/WellFormed.lean ====
section
/-! DEFINITION. What the opcode table's constraints ask of a row's operands beyond their widths: the ranges of value11
(rule R83) and the telemetry types the named EDT rows take out of `REPLY_EDT_OTHER` (rule R91). The CRC constraint is no
check of syntax: the core re-verifies it when it reads the word (rule R81, log entry 7). -/

namespace Sys2Proof

/-- The operands are values the row's pattern and constraint admit. -/
def Instr.wf : Instr → Bool
  | .dshotFrameThrottle value11 _ _ => decide (48 ≤ value11.toNat)
  | .dshotFrameSpecial code _ _ => decide (code.toNat ≤ 47)
  | .replyErpm _ _ _ => true
  | .replyEdtTemperature _ _ => true
  | .replyEdtVoltage _ _ => true
  | .replyEdtCurrent _ _ => true
  | .replyEdtOther ty _ _ => decide (ty ≠ 1#3 ∧ ty ≠ 2#3 ∧ ty ≠ 3#3)
  | .nrziWord _ _ => true
  | .gcrNibble0 | .gcrNibble1 | .gcrNibble2 | .gcrNibble3 => true
  | .gcrNibble4 | .gcrNibble5 | .gcrNibble6 | .gcrNibble7 => true
  | .gcrNibble8 | .gcrNibble9 | .gcrNibbleA | .gcrNibbleB => true
  | .gcrNibbleC | .gcrNibbleD | .gcrNibbleE | .gcrNibbleF => true
  | .encodeThrottle _ => true
  | .encodeSpecial _ => true
  | .crc4 _ => true
  | .buildFrame _ _ => true
  | .decodeAndValidate _ => true
  | .frameToPulses _ => true
  | .runsToBits _ _ _ => true
  | .decode _ _ _ => true
  | .allocAcquireAny => true
  | .allocAcquireInRange _ _ => true
  | .allocRelease _ => true
  | .allocCountFree => true
  | .allocIsTaken _ => true
  | .leaseAcquireAny _ => true
  | .leaseAcquireInRange _ _ _ => true
  | .leaseRelease _ => true
  | .leaseDestroy _ => true
  | .schedBegin _ => true
  | .schedArm _ _ => true
  | .schedWriteNormalized _ _ => true
  | .schedSendSpecial _ _ => true
  | .schedReadTelemetry _ => true
  | .schedEnd _ => true
  | .leaseDisown _ => true

end Sys2Proof
end

