-- ==== Sys2Proof/Decode.lean ====
section
/-! DEFINITION. From a word of a wire format, or an operation request, to an instruction, and back (rules R80 to R97). A
request says which format its word is in: the same sixteen bits are a command frame on the way out and a reply value on the
way in, and the same five bits a GCR code or an operation selector, so a word alone does not (log entry 8). -/

namespace Sys2Proof

/-- An argument of an operation request, as a value: the spec gives an argument no bits (decision D37, log entry 9). -/
inductive Operand where
  /-- an index, a bound, a tick count, a name of a lease or an instance, or a word given by its number -/
  | num (n : Nat)
  | throttle (x : ThrottleInput)
  | flag (b : Bool)
  | runs (l : List Nat)
  deriving DecidableEq, Repr

/-- What a host presents to the core: a word of a wire format, or an operation's selector with its arguments (rule R97). -/
inductive Request where
  | frame16 (w : U16)
  | reply16 (w : U16)
  | nrzi21 (w : U21)
  | gcr5 (w : U5)
  | op (selector : U8) (operands : List Operand)
  deriving DecidableEq, Repr

/-- Why a request is not an instruction. -/
inductive Reject where
  /-- selectors 24 to 31 are unassigned, and pattern `000sssss` has no others (rule R96, V5) -/
  | selectorUnassigned (selector : U8)
  /-- a five-bit code that has no row; a step looks it up all the same (rules R92, R94 (f); log entry 24) -/
  | noGcrRow (code : U5)
  /-- the arguments are not those of the operation's signature (rule R95), or one does not fit its type -/
  | operands (selector : U8)
  deriving DecidableEq, Repr

/-! ### Wire formats: words built from their fields -/

/-- `vvvvvvvvvvvtcccc` (rule R81). -/
def frameWord (value11 : U11) (t : Bit) (crc : U4) : U16 :=
  (value11.setWidth 16 <<< 5) ||| (t.setWidth 16 <<< 4) ||| crc.setWidth 16

/-- `ttt`, bit 12, eight bits, `cccc`: `eee1mmmmmmmmcccc` or `ttt0rrrrrrrrcccc` (rules R90, R91). -/
def replyWord (top3 : BitVec 3) (bit12 : Bit) (low8 : U8) (crc : U4) : U16 :=
  (top3.setWidth 16 <<< 13) ||| (bit12.setWidth 16 <<< 12) ||| (low8.setWidth 16 <<< 4) ||| crc.setWidth 16

/-- `Lnnnnnnnnnnnnnnnnnnnn` (rule R87). -/
def nrziWord (lead : Bit) (levels : U20) : U21 :=
  (lead.setWidth 21 <<< 20) ||| levels.setWidth 21

/-! ### Wire formats: instructions from words -/

/-- `vvvvvvvvvvvtcccc`: value11 of 48 and more is a throttle code, below 48 a special command (rules R81, R83). -/
def decodeFrame16 (w : U16) : Instr :=
  let value11 : U11 := w.extractLsb' 5 11
  let t : Bit := w.extractLsb' 4 1
  let crc : U4 := w.extractLsb' 0 4
  if 48 ≤ value11.toNat then .dshotFrameThrottle value11 t crc
  else .dshotFrameSpecial (w.extractLsb' 5 6) t crc

/-- Bit 12 of a reply value is payload bit 8: 1 selects eRPM, `eee1mmmmmmmmcccc`, 0 extended telemetry, `ttt0rrrrrrrrcccc`
(rules R89 to R91). -/
def decodeReply16 (w : U16) : Instr :=
  let top3 : BitVec 3 := w.extractLsb' 13 3
  let low8 : U8 := w.extractLsb' 4 8
  let crc : U4 := w.extractLsb' 0 4
  if w.extractLsb' 12 1 = 1#1 then .replyErpm top3 low8 crc
  else if top3 = 1#3 then .replyEdtTemperature low8 crc
  else if top3 = 2#3 then .replyEdtVoltage low8 crc
  else if top3 = 3#3 then .replyEdtCurrent low8 crc
  else .replyEdtOther top3 low8 crc

/-- `Lnnnnnnnnnnnnnnnnnnnn` (rule R87). -/
def decodeNrzi21 (w : U21) : Instr :=
  .nrziWord (w.extractLsb' 20 1) (w.extractLsb' 0 20)

/-- The rows are the sixteen codes valid in the default table of rule R92, "one row per valid GCR code" (rule R97). GCR_TABLE is a
parameter, and a decoder of words knows no configuration: that the rows are these sixteen whatever table is configured is a
DESIGN CHOICE of the model (log entry 24). A code without a row is named so here; presented to the core it is looked up in
the configured table like every other (`Machine.rejectRequest`). -/
def decodeGcr5 (w : U5) : Except Reject Instr :=
  match w.toNat with
  | 0x19 => .ok .gcrNibble0
  | 0x1B => .ok .gcrNibble1
  | 0x12 => .ok .gcrNibble2
  | 0x13 => .ok .gcrNibble3
  | 0x1D => .ok .gcrNibble4
  | 0x15 => .ok .gcrNibble5
  | 0x16 => .ok .gcrNibble6
  | 0x17 => .ok .gcrNibble7
  | 0x1A => .ok .gcrNibble8
  | 0x09 => .ok .gcrNibble9
  | 0x0A => .ok .gcrNibbleA
  | 0x0B => .ok .gcrNibbleB
  | 0x1E => .ok .gcrNibbleC
  | 0x0D => .ok .gcrNibbleD
  | 0x0E => .ok .gcrNibbleE
  | 0x0F => .ok .gcrNibbleF
  | _ => .error (.noGcrRow w)

/-! ### Operation requests -/

/-- The arguments of a signature read off a request's operand list; `none` where the list is not of that shape, or a number
does not fit the argument's word type. -/
def readWord (w n : Nat) : Option (BitVec w) :=
  if n < 2 ^ w then some (BitVec.ofNat w n) else none

/-- Rule R96's table: what each selector asks for, with the arguments of rule R95's signatures. -/
def readOperation (selector : U8) (operands : List Operand) : Option Instr :=
  match selector.toNat, operands with
  | 0, [.throttle x] => some (.encodeThrottle x)
  | 1, [.num code] => (readWord 8 code).map .encodeSpecial
  | 2, [.num p] => (readWord 12 p).map .crc4
  | 3, [.num value11, .num t] =>
    (readWord 11 value11).bind fun v => (readWord 1 t).map fun b => .buildFrame v b
  | 4, [.num frame16] => (readWord 16 frame16).map .decodeAndValidate
  | 5, [.num frame16] => (readWord 16 frame16).map .frameToPulses
  | 6, [.runs high, .runs low, .num rbt] => some (.runsToBits high low rbt)
  | 7, [.runs high, .runs low, .num rbt] => some (.decode high low rbt)
  | 8, [] => some .allocAcquireAny
  | 9, [.num first, .num last] => some (.allocAcquireInRange first last)
  | 10, [.num index] => some (.allocRelease index)
  | 11, [] => some .allocCountFree
  | 12, [.num index] => some (.allocIsTaken index)
  | 13, [.num l] => some (.leaseAcquireAny l)
  | 14, [.num l, .num first, .num last] => some (.leaseAcquireInRange l first last)
  | 15, [.num l] => some (.leaseRelease l)
  | 16, [.num l] => some (.leaseDestroy l)
  | 17, [.num k] => some (.schedBegin k)
  | 18, [.num k, .flag on] => some (.schedArm k on)
  | 19, [.num k, .throttle x] => some (.schedWriteNormalized k x)
  | 20, [.num k, .num code] => (readWord 8 code).map (.schedSendSpecial k)
  | 21, [.num k] => some (.schedReadTelemetry k)
  | 22, [.num k] => some (.schedEnd k)
  | 23, [.num l] => some (.leaseDisown l)
  | _, _ => none

/-- An operation request: a selector above 23 is unassigned (rule R96), and the arguments must be the operation's. -/
def decodeOp (selector : U8) (operands : List Operand) : Except Reject Instr :=
  match readOperation selector operands with
  | some i => .ok i
  | none => if selector.toNat ≤ 23 then .error (.operands selector) else .error (.selectorUnassigned selector)

/-- The decoder: total, and a request that is no instruction is rejected by name. -/
def decode : Request → Except Reject Instr
  | .frame16 w => .ok (decodeFrame16 w)
  | .reply16 w => .ok (decodeReply16 w)
  | .nrzi21 w => .ok (decodeNrzi21 w)
  | .gcr5 w => decodeGcr5 w
  | .op selector operands => decodeOp selector operands

/-! ### The encoder -/

/-- The request that stands for a well-formed instruction, from the same patterns and the same selector table. -/
def encode : Instr → Request
  | .dshotFrameThrottle value11 t crc => .frame16 (frameWord value11 t crc)
  | .dshotFrameSpecial code t crc => .frame16 (frameWord (code.setWidth 11) t crc)
  | .replyErpm e m crc => .reply16 (replyWord e 1#1 m crc)
  | .replyEdtTemperature raw crc => .reply16 (replyWord 1#3 0#1 raw crc)
  | .replyEdtVoltage raw crc => .reply16 (replyWord 2#3 0#1 raw crc)
  | .replyEdtCurrent raw crc => .reply16 (replyWord 3#3 0#1 raw crc)
  | .replyEdtOther ty raw crc => .reply16 (replyWord ty 0#1 raw crc)
  | .nrziWord lead levels => .nrzi21 (nrziWord lead levels)
  | .gcrNibble0 => .gcr5 0x19
  | .gcrNibble1 => .gcr5 0x1B
  | .gcrNibble2 => .gcr5 0x12
  | .gcrNibble3 => .gcr5 0x13
  | .gcrNibble4 => .gcr5 0x1D
  | .gcrNibble5 => .gcr5 0x15
  | .gcrNibble6 => .gcr5 0x16
  | .gcrNibble7 => .gcr5 0x17
  | .gcrNibble8 => .gcr5 0x1A
  | .gcrNibble9 => .gcr5 0x09
  | .gcrNibbleA => .gcr5 0x0A
  | .gcrNibbleB => .gcr5 0x0B
  | .gcrNibbleC => .gcr5 0x1E
  | .gcrNibbleD => .gcr5 0x0D
  | .gcrNibbleE => .gcr5 0x0E
  | .gcrNibbleF => .gcr5 0x0F
  | .encodeThrottle x => .op 0 [.throttle x]
  | .encodeSpecial code => .op 1 [.num code.toNat]
  | .crc4 p => .op 2 [.num p.toNat]
  | .buildFrame value11 t => .op 3 [.num value11.toNat, .num t.toNat]
  | .decodeAndValidate frame16 => .op 4 [.num frame16.toNat]
  | .frameToPulses frame16 => .op 5 [.num frame16.toNat]
  | .runsToBits high low rbt => .op 6 [.runs high, .runs low, .num rbt]
  | .decode high low rbt => .op 7 [.runs high, .runs low, .num rbt]
  | .allocAcquireAny => .op 8 []
  | .allocAcquireInRange first last => .op 9 [.num first, .num last]
  | .allocRelease index => .op 10 [.num index]
  | .allocCountFree => .op 11 []
  | .allocIsTaken index => .op 12 [.num index]
  | .leaseAcquireAny l => .op 13 [.num l]
  | .leaseAcquireInRange l first last => .op 14 [.num l, .num first, .num last]
  | .leaseRelease l => .op 15 [.num l]
  | .leaseDestroy l => .op 16 [.num l]
  | .schedBegin k => .op 17 [.num k]
  | .schedArm k on => .op 18 [.num k, .flag on]
  | .schedWriteNormalized k x => .op 19 [.num k, .throttle x]
  | .schedSendSpecial k code => .op 20 [.num k, .num code.toNat]
  | .schedReadTelemetry k => .op 21 [.num k]
  | .schedEnd k => .op 22 [.num k]
  | .leaseDisown l => .op 23 [.num l]

/-! ### Words of the opcode table -/

/-- The arguments of an operation when every one of them is zero: the number 0, the throttle 0, `false`, no runs. -/
def zeroOperands (selector : Nat) : List Operand :=
  match selector with
  | 0 => [.throttle (.finite 0)]
  | 1 | 2 | 4 | 5 | 10 | 12 | 13 | 15 | 16 | 17 | 21 | 22 | 23 => [.num 0]
  | 3 | 9 | 20 => [.num 0, .num 0]
  | 6 | 7 => [.runs [], .runs [], .num 0]
  | 14 => [.num 0, .num 0, .num 0]
  | 18 => [.num 0, .flag false]
  | 19 => [.num 0, .throttle (.finite 0)]
  | _ => []

/-- The CRC rule of a 16-bit word of either direction: its four nibbles XOR to 0 (rules R82, R154). -/
def crcHolds (w : U16) : Bool :=
  w.extractLsb' 12 4 ^^^ w.extractLsb' 8 4 ^^^ w.extractLsb' 4 4 ^^^ w.extractLsb' 0 4 == 0#4

/-- Whether a number is one of the sixteen codes that have a row (log entry 24). -/
def isGcrCode (w : Nat) : Bool :=
  decide (w < 32) && (decodeGcr5 (BitVec.ofNat 5 w)).toOption.isSome

/-- The request a word of `nbits` bits of spec/opcode_table.json stands for. The table numbers the words of its formats over
one another; where a word's length admits two formats this function chooses (log entry 8):
eight bits are an operation selector where they are one of the 24 assigned, else a GCR code;
sixteen bits are a GCR code where they are one of the sixteen (no word of ours with a true CRC is), else a command frame
where value11 is below 48 or the CRC is true, else a reply value. -/
def tableRequest (nbits w : Nat) : Option Request :=
  if w ≥ 2 ^ nbits then none
  else match nbits with
  | 5 => some (.gcr5 (BitVec.ofNat 5 w))
  | 8 =>
    if w < 24 then some (.op (BitVec.ofNat 8 w) (zeroOperands w))
    else if isGcrCode w then some (.gcr5 (BitVec.ofNat 5 w))
    else some (.op (BitVec.ofNat 8 w) [])
  | 16 =>
    let word : U16 := BitVec.ofNat 16 w
    if isGcrCode w then some (.gcr5 (BitVec.ofNat 5 w))
    else if word.toNat / 32 < 48 ∨ crcHolds word then some (.frame16 word)
    else some (.reply16 word)
  | 21 => some (.nrzi21 (BitVec.ofNat 21 w))
  | 24 => if w < 2 ^ 21 then some (.nrzi21 (BitVec.ofNat 21 w)) else none
  | _ => none

/-- The instruction this decoder reads from a word of the opcode table, the arguments of an operation all zero. -/
def decodeTableWord (nbits w : Nat) : Option Instr :=
  (tableRequest nbits w).bind fun r => (decode r).toOption

end Sys2Proof
end

