-- ==== Sys2Proof/Config.lean ====
section
/-! DEFINITION. The configuration record of rule R8, and the environment's free choices (rules R240, R245) as opaque
constants: no proof can see a value of one. -/

namespace Sys2Proof

/-- How the 21-bit NRZI word gets its leading bit (rules R8, R134; decision D11). -/
inductive LeadBitMode where
  /-- the decoder prepends a 0 and takes 20 bits from the runs -/
  | synthetic
  /-- all 21 bits come from the runs -/
  | captured
  deriving DecidableEq, Repr

/-- The implementation parameters of rule R8, fixed at construction. MIN_CODE and the tick constants are derived from them;
the two thresholds are fixed constants (Machine/Parameters.lean). -/
structure Config where
  /-- POOL_SIZE, N -/
  poolSize : Nat
  /-- IDLE_OFFSET -/
  idleOffset : Nat
  /-- IDLE_CODE -/
  idleCode : U11
  /-- PERIOD_US -/
  periodUs : Nat
  /-- TELEMETRY_DIVISOR -/
  telemetryDivisor : Nat
  /-- POLE_PAIRS -/
  polePairs : Nat
  /-- BIDIR -/
  bidir : Bool
  /-- TOTAL_BIT_TICKS, T -/
  totalBitTicks : Nat
  /-- REPLY_BIT_TICKS -/
  replyBitTicks : Nat
  /-- LEAD_BIT_MODE -/
  leadBitMode : LeadBitMode
  /-- GCR_TABLE: entry c is what the 5-bit code c stands for, `none` for an invalid code -/
  gcrTable : List (Option U4)
  /-- K_TEMP, °C per LSB -/
  kTemp : Rat
  /-- K_VOLT, V per LSB -/
  kVolt : Rat
  /-- K_CURR, A per LSB -/
  kCurr : Rat
  /-- TX_RANGE: first and last index, both included -/
  txRange : Nat × Nat
  /-- RX_RANGE -/
  rxRange : Nat × Nat
  deriving DecidableEq, Repr

/-- FREE VALUE (rule R240, V9): the microseconds that have passed on this instance when draw number `draw` reads the clock. -/
opaque Config.freeElapsed (inst : InstId) (draw : Nat) : Nat
/-- FREE VALUE (rule R245 (a), V6): whether the instance's engine accepts the configuration. -/
opaque Config.freeConfigure (inst : InstId) (draw : Nat) : Bool
/-- FREE VALUE (rule R245 (b), V7): whether the instance's engine reports the frame sent. -/
opaque Config.freeTransmit (inst : InstId) (draw : Nat) : Bool
/-- FREE VALUE (rule R245 (d), V8): what the instance's engine has captured. -/
opaque Config.freeCapture (inst : InstId) (draw : Nat) : Option RunSample

end Sys2Proof
end

