-- ==== Sys2Proof/Machine/Parameters.lean ====
section
/-! DEFINITION. The fixed constants, the derived parameters, the defaults and the well-formedness of a configuration
(rules R8, R9, R92, R130). -/

namespace Sys2Proof.Machine

/-- EXIT_THRESHOLD, 0.04 as the exact rational 1/25 (rule R8, decision D1). -/
def exitThreshold : Rat := 1 / 25

/-- ENTER_THRESHOLD, 0.02 as the exact rational 1/50 (rule R8, decision D1). -/
def enterThreshold : Rat := 1 / 50

/-- MIN_CODE = 48 + IDLE_OFFSET (rule R8). -/
def minCode (c : Config) : Nat := 48 + c.idleOffset

/-- The span of throttle codes above MIN_CODE (rule R110). -/
def throttleSpan (c : Config) : Nat := 2047 - minCode c

/-- HIGH1 = floor(3·T / 4) (rule R130, decision D6). -/
def high1 (c : Config) : Nat := 3 * c.totalBitTicks / 4

/-- HIGH0 = floor(3·T / 8) (rule R130, decision D6). -/
def high0 (c : Config) : Nat := 3 * c.totalBitTicks / 8

/-- How many of the table's entries are valid. -/
def validEntries (t : List (Option U4)) : Nat := t.countP Option.isSome

/-- Every constraint of rule R8, as rule R9 collects them: a configuration for which the core has a meaning. -/
def configWf (c : Config) : Bool :=
  decide (1 ≤ c.poolSize) && decide (c.idleOffset ≤ 1999) && decide (1 ≤ c.telemetryDivisor) &&
  decide (1 ≤ c.polePairs) && decide (8 ≤ c.totalBitTicks) && decide (c.totalBitTicks ≤ 65535) &&
  decide (1 ≤ c.replyBitTicks) && decide (c.gcrTable.length = 32) && decide (validEntries c.gcrTable = 16)

/-- The default GCR_TABLE, codes 0x00 to 0x1F in order (rule R92; general knowledge G1, log entry 11). -/
def defaultGcrTable : List (Option U4) :=
  [none, none, none, none, none, none, none, none] ++
  [none, some 0x9, some 0xA, some 0xB, none, some 0xD, some 0xE, some 0xF] ++
  [none, none, some 0x2, some 0x3, none, some 0x5, some 0x6, some 0x7] ++
  [none, some 0x0, some 0x8, some 0x1, none, some 0x4, some 0xC, none]

/-- REPLY_BIT_TICKS by default: 4T/5 rounded half up (rule R8, decision D7). -/
def defaultReplyBitTicks (totalBitTicks : Nat) : Nat := (8 * totalBitTicks + 5) / 10

/-- The configuration of `State.reset`: the defaults rule R8 gives, and for the OPEN parameters (POOL_SIZE, PERIOD_US,
POLE_PAIRS, BIDIR, TOTAL_BIT_TICKS and the ranges' bounds) the values of log entry 1 (DESIGN CHOICE). -/
def defaultConfig : Config where
  poolSize := 8
  idleOffset := 0
  idleCode := 48
  periodUs := 1000
  telemetryDivisor := 32
  polePairs := 7
  bidir := true
  totalBitTicks := 64
  replyBitTicks := defaultReplyBitTicks 64
  leadBitMode := .synthetic
  gcrTable := defaultGcrTable
  kTemp := 1
  kVolt := 1 / 4
  kCurr := 1
  txRange := (0, 7)
  rxRange := (0, 7)

end Sys2Proof.Machine
end

