-- ==== Sys2Proof/Machine/State.lean ====
section
/-! DEFINITION. The machine's state as plain data: the channel pool, the leases, the scheduler instances (rules R20 to R41),
and the model's own record of the host's requests, the results and the environment's answers. -/

namespace Sys2Proof.Machine

/-- The five failure kinds (rule R230). They go to the logger only (rule R13). -/
inductive Diag where
  | resourceExhausted
  | hardwareConfigFailed
  | transmitFailed
  | decodeInvalid
  | rateLimited
  deriving DecidableEq, Repr

/-- The link state (rule R31). -/
inductive Link where
  | disarmed
  | armedZero
  | armedActive
  deriving DecidableEq, Repr

/-- The kinds of a TelemetryFrame (rule R36); the dead kind `Invalid` is left out as that rule allows (log entry 13). -/
inductive TelemetryKind where
  | erpm
  | edtTemperature
  | edtVoltage
  | edtCurrent
  | edtOther
  deriving DecidableEq, Repr

/-- TelemetryFrame (rule R36). -/
structure TelemetryFrame where
  kind : TelemetryKind
  payload12 : U12
  crc4 : U4
  value : Nat
  deriving DecidableEq, Repr

/-- The telemetry cache (rule R34). -/
structure Cache where
  fresh : Bool
  frame : Option TelemetryFrame
  rpm : U16
  temperature : Rat
  voltage : Rat
  current : Rat
  deriving DecidableEq, Repr

/-- The cache's reset value (rule R35). -/
def Cache.initial : Cache :=
  { fresh := false, frame := none, rpm := 0, temperature := 0, voltage := 0, current := 0 }

/-- A lease: empty, or live on one index (rule R25). -/
structure Lease where
  held : Option Nat
  deriving DecidableEq, Repr

/-- A lease is created empty (rule R26). -/
def Lease.initial : Lease := { held := none }

/-- A standalone lease and whether its life has ended (rule R184). -/
structure LeaseSlot where
  lease : Lease
  destroyed : Bool
  deriving DecidableEq, Repr

/-- A lease the host has not used yet: empty, not destroyed (rule R26). -/
def LeaseSlot.initial : LeaseSlot := { lease := Lease.initial, destroyed := false }

/-- One pulse on the wire: HIGH for `highTicks`, then LOW for `lowTicks` (rule R84). -/
structure PulsePair where
  highTicks : U16
  lowTicks : U16
  deriving DecidableEq, Repr

/-- A call of an instance to its environment, with its arguments and its answer (rules R240, R244). -/
inductive EnvCall where
  | now (time : Nat)
  | configure (tx rx : Option Nat) (accepted : Bool)
  | transmit (pulses : List PulsePair) (sent : Bool)
  | beginReceiveWindow
  | pollCapture (answer : Option RunSample)
  | endReceiveWindow
  deriving DecidableEq, Repr

/-- What an instance's environment is going to answer (rules R240, R245; log entries 2, 3): a list per call, first answer
first, and past a list's end the free values of Config. `time` is the clock's last reading, `draws` counts the answers
given. -/
structure Env where
  /-- microseconds that pass between one reading of the clock and the next -/
  clock : List Nat
  configure : List Bool
  transmit : List Bool
  capture : List (Option RunSample)
  time : Nat
  draws : Nat
  deriving DecidableEq, Repr

/-- Nothing foreseen: every answer is a free value. -/
def Env.initial : Env := { clock := [], configure := [], transmit := [], capture := [], time := 0, draws := 0 }

/-- Where a `begin` or an `end` left in flight stands: the step it takes next (rules R68, R190, R205). -/
inductive Phase where
  | beginTx
  | beginRx
  | beginConfigure
  /-- a failed `begin` about to release the receive lease -/
  | undoRx (why : Diag)
  /-- a failed `begin` about to release the transmit lease -/
  | undoTx (why : Diag)
  | endTransmit
  | endRx
  | endTx
  | endReset
  deriving DecidableEq, Repr

/-- One EscLinkScheduler instance (rule R30), its ghost logs (rule R41), its environment, and the operation in flight. -/
structure Instance where
  link : Link
  periodUs : Nat
  nextDue : Nat
  counter : Nat
  divisor : Nat
  polePairs : Nat
  cache : Cache
  initialized : Bool
  tx : Lease
  rx : Lease
  /-- the `begin` or `end` in flight, none between operations (rule R251) -/
  busy : Option Phase
  /-- ghost: the frames sent (rule R41) -/
  txLog : List U16
  /-- ghost: the failures noted (rule R41) -/
  diagLog : List Diag
  /-- ghost: the calls to the environment (log entry 6) -/
  envLog : List EnvCall
  env : Env
  deriving DecidableEq, Repr

/-- An instance right after construction (rules R32, R261). -/
def Instance.initial (c : Config) : Instance where
  link := .disarmed
  periodUs := c.periodUs
  nextDue := 0
  counter := 0
  divisor := c.telemetryDivisor
  polePairs := c.polePairs
  cache := Cache.initial
  initialized := false
  tx := Lease.initial
  rx := Lease.initial
  busy := none
  txLog := []
  diagLog := []
  envLog := []
  env := Env.initial

/-- What a host does next (rules R68, R251; log entry 4). -/
inductive Event where
  /-- issue an operation, which runs to completion -/
  | run (r : Request)
  /-- issue an operation; a `begin` or an `end` is left in flight before its first step -/
  | start (r : Request)
  /-- the operation in flight on an instance takes its next step -/
  | resume (inst : InstId)
  deriving DecidableEq, Repr

/-- What a command frame says (rule R81): a throttle code or a special command (rule R83), and the telemetry-request bit. -/
inductive CommandFrame where
  | throttle (value11 : U11) (t : Bit)
  | special (value11 : U11) (t : Bit)
  deriving DecidableEq, Repr

/-- What an operation returned (rules R12, R253). -/
inductive Result where
  | unit
  | bool (b : Bool)
  | nat (n : Nat)
  | index (i : Option Nat)
  | u4 (v : U4)
  | u11 (v : U11)
  | u16 (v : U16)
  | u20 (v : U20)
  | nibble (v : Option U4)
  | payload (p : Option (U12 × Bool))
  | pulses (l : List PulsePair)
  | nrzi (v : Option U21)
  | telemetry (f : Option TelemetryFrame)
  | command (f : Option CommandFrame)
  deriving DecidableEq, Repr

/-- The machine's state: rule R20's pool, leases and instances under a fixed configuration (rule R8). The tables of leases
and instances are listed by name, in canonical form; a name not listed is an object as constructed (log entry 5). -/
structure State where
  /-- the configuration of the system: its pool, its pure functions, and every instance without one of its own -/
  cfg : Config
  /-- the configurations of the instances constructed with one of their own (rules R3, R248; log entry 23), in canonical form -/
  instCfgs : List (Nat × Config)
  /-- `taken[0 .. N−1]`, true = Taken (rule R22) -/
  pool : List Bool
  leases : List (Nat × LeaseSlot)
  insts : List (Nat × Instance)
  /-- ghost: failures noted by operations that name no instance (rule R41) -/
  diagLog : List Diag
  /-- what the hosts issue, first event first (log entry 4) -/
  agenda : List Event
  /-- what the completed operations returned, in order (rule R253) -/
  results : List Result
  deriving DecidableEq, Repr

/-- The system as constructed with one configuration for all: every entry Free, every lease empty, every instance at its reset values
(rules R260, R261). -/
def State.initial (c : Config) : State where
  cfg := c
  instCfgs := []
  pool := List.replicate c.poolSize false
  leases := []
  insts := []
  diagLog := []
  agenda := []
  results := []

/-- The machine right after reset, with the configuration of log entry 1. -/
def State.reset : State := State.initial defaultConfig

/-- The core faults nowhere: "No access ever faults" (rule R64), "nothing crosses as a thrown exception" (rules R13, R231),
so this type has no value and nothing raises one. Safe. -/
inductive Fault where
  deriving DecidableEq, Repr

/-- Why the model gives no meaning. -/
inductive Refusal where
  /-- raised by an arm of `exec` whose instruction has no meaning yet; safe -/
  | notModelled (mnemonic : String)
  /-- raised by a step whose request is an unassigned selector, 24 to 31 among them (rule R96, V5), or has arguments that are not
  the operation's (log entry 9); safe -/
  | undecodable (why : Reject)
  /-- raised by `S.begin()` on an initialized instance (rule R190, V1); safe -/
  | beginWhileInitialized (inst : InstId)
  /-- raised by an operation on an instance that has one in flight (rule R68, V2); safe -/
  | overlap (inst : InstId)
  /-- raised by a lease operation that names a destroyed lease (rule R184, V3); safe -/
  | leaseDestroyed (lease : LeaseId)
  /-- raised by construction, and by a step, under an ill-formed configuration (rule R9, V4); safe -/
  | illFormedConfig
  deriving DecidableEq, Repr

end Sys2Proof.Machine
end

