-- ==== Sys2Proof/Machine/Ops.lean ====
section
/-! DEFINITION. The named operations over the state: the tables of objects, the channel pool, the leases, the failure notes,
and the calls to the environment. Every meaning is written over these. -/

namespace Sys2Proof.Machine

/-! ### Tables of objects by name -/

/-- What a table says of a name; `d` is the value of a name it does not list. -/
def tableFind {α : Type} (d : α) (name : Nat) : List (Nat × α) → α
  | [] => d
  | (n, a) :: rest => if n = name then a else tableFind d name rest

/-- Enter a value in key order. -/
def tableInsert {α : Type} (name : Nat) (a : α) : List (Nat × α) → List (Nat × α)
  | [] => [(name, a)]
  | (n, b) :: rest => if name < n then (name, a) :: (n, b) :: rest else (n, b) :: tableInsert name a rest

/-- Every other name's entry. -/
def tableErase {α : Type} (name : Nat) (t : List (Nat × α)) : List (Nat × α) :=
  t.filter fun e => decide (e.1 ≠ name)

/-- Set a name's value; the value of an unlisted name removes the entry, so that equal tables are equal data. -/
def tablePut {α : Type} [DecidableEq α] (d : α) (name : Nat) (a : α) (t : List (Nat × α)) : List (Nat × α) :=
  if a = d then tableErase name t else tableInsert name a (tableErase name t)

/-- Canonical form: names strictly rising, no entry equal to the value `d` of that name unlisted. -/
def tableWf {α : Type} [DecidableEq α] (d : Nat → α) : List (Nat × α) → Bool
  | [] => true
  | (n, a) :: rest => decide (a ≠ d n) && rest.all (fun e => decide (n < e.1)) && tableWf d rest

/-- The configuration an instance was constructed with (rules R3, R8; log entry 23). -/
def State.instCfg (s : State) (k : InstId) : Config := tableFind s.cfg k s.instCfgs

/-- The instance of that name. -/
def State.inst (s : State) (k : InstId) : Instance := tableFind (Instance.initial (s.instCfg k)) k s.insts

/-- The state with that instance changed. -/
def State.setInst (s : State) (k : InstId) (i : Instance) : State :=
  { s with insts := tablePut (Instance.initial (s.instCfg k)) k i s.insts }

/-- The standalone lease of that name. -/
def State.lease (s : State) (l : LeaseId) : LeaseSlot := tableFind LeaseSlot.initial l s.leases

/-- The state with that lease changed. -/
def State.setLease (s : State) (l : LeaseId) (v : LeaseSlot) : State :=
  { s with leases := tablePut LeaseSlot.initial l v s.leases }

/-- The state with the pool changed. -/
def State.setPool (s : State) (p : List Bool) : State := { s with pool := p }

/-- `return r`: the operation's result joins the results (rules R12, R253). -/
def State.ret (s : State) (r : Result) : State := { s with results := s.results ++ [r] }

/-- The canonical form of everything the state keeps by index or by name: the pool has N entries (rule R22), the tables are
canonical. -/
def Memory.wf (s : State) : Bool :=
  decide (s.pool.length = s.cfg.poolSize) && tableWf (fun _ => s.cfg) s.instCfgs &&
  tableWf (fun k => Instance.initial (s.instCfg k)) s.insts && tableWf (fun _ => LeaseSlot.initial) s.leases

/-- Every configuration of the state is well formed, and all name the one pool's size (rules R9, R22). -/
def State.configured (s : State) : Bool :=
  configWf s.cfg && s.instCfgs.all fun e => configWf e.2 && decide (e.2.poolSize = s.cfg.poolSize)

/-- The reset state with the configurations of the instances that have one of their own (log entry 23). -/
def State.initialWith (c : Config) (own : List (Nat × Config)) : State :=
  { State.initial c with instCfgs := own.foldl (fun t e => tablePut c e.1 e.2 t) [] }

/-- Construction: an ill-formed configuration is refused, well-formed ones give the reset state (rules R9, R260). -/
def State.construct (c : Config) (own : List (Nat × Config)) : Host.Outcome State Fault Refusal :=
  if configWf c && own.all fun e => configWf e.2 && decide (e.2.poolSize = c.poolSize) then .next (State.initialWith c own)
  else .refused .illFormedConfig

/-! ### Failures: `diag` (rule R13), the one thing that stands where another machine takes an exception (rules R235, R236) -/

/-- Note a failure on an instance. -/
def Instance.diag (i : Instance) (d : Diag) : Instance := { i with diagLog := i.diagLog ++ [d] }

/-- Note a failure of an operation that names no instance. -/
def State.diag (s : State) (d : Diag) : State := { s with diagLog := s.diagLog ++ [d] }

/-- What a decode leaves: the frame, or `None` with DecodeInvalid noted and nothing else changed (rules R150, R161, R230). -/
def State.retDecoded (s : State) : Option TelemetryFrame → State
  | some f => s.ret (.telemetry (some f))
  | none => (s.diag .decodeInvalid).ret (.telemetry none)

/-! ### The channel pool (rules R22, R63, R64, R170 to R177); N is the pool's length (log entry 14) -/

/-- The lowest Free index of `first .. last`, scanning upward; `i` is the index the list starts at (rule R171). -/
def scanFree (first last : Nat) : List Bool → Nat → Option Nat
  | [], _ => none
  | b :: rest, i => if first ≤ i ∧ i ≤ last ∧ b = false then some i else scanFree first last rest (i + 1)

/-- `ALLOC.acquire_in_range` on a pool (rule R171). -/
def poolAcquire (first last : Nat) (p : List Bool) : Option Nat × List Bool :=
  match scanFree first last p 0 with
  | some i => (some i, p.set i true)
  | none => (none, p)

/-- `taken[index]`; an index outside the pool names no entry and is reported not taken (rules R64, R177). -/
def poolTaken (p : List Bool) (index : Nat) : Bool := p.getD index false

/-- `ALLOC.release` on a pool: a Free or out-of-range index is a no-op (rule R172). -/
def poolRelease (index : Nat) (p : List Bool) : List Bool :=
  if index < p.length ∧ poolTaken p index = true then p.set index false else p

/-- `ALLOC.count_free` on a pool (rule R176). -/
def poolCountFree (p : List Bool) : Nat := p.countP fun b => !b

/-! ### Leases (rules R180 to R184), on a lease and the pool -/

/-- What a lease operation leaves: whether it acquired, the lease, the pool. -/
structure LeaseOutcome where
  ok : Bool
  lease : Lease
  pool : List Bool
  deriving DecidableEq, Repr

/-- `L.release()`: the index goes back to the pool once (rule R182). -/
def leaseRelease (l : Lease) (p : List Bool) : Lease × List Bool :=
  match l.held with
  | some i => ({ held := none }, poolRelease i p)
  | none => (l, p)

/-- `L.acquire_in_range`: a live lease releases what it holds, then acquires (rules R180, R181, decision D19). -/
def leaseAcquire (first last : Nat) (l : Lease) (p : List Bool) : LeaseOutcome :=
  match poolAcquire first last (leaseRelease l p).2 with
  | (some i, p') => { ok := true, lease := { held := some i }, pool := p' }
  | (none, p') => { ok := false, lease := { held := none }, pool := p' }

/-! ### The environment (rules R240, R244, R245): each call takes the next foreseen answer, or a free value -/

/-- The next answer of a list, or the free value past its end, and the list that remains. -/
def nextAnswer {α : Type} (free : α) : List α → α × List α
  | [] => (free, [])
  | a :: rest => (a, rest)

/-- Record a call to the environment. -/
def Instance.logCall (i : Instance) (c : EnvCall) : Instance := { i with envLog := i.envLog ++ [c] }

/-- `NOW()`: never below the instance's previous reading (rule R240, log entry 3). -/
def Instance.now (k : InstId) (i : Instance) : Nat × Instance :=
  let a := nextAnswer (Config.freeElapsed k i.env.draws) i.env.clock
  let t := i.env.time + a.1
  (t, Instance.logCall { i with env := { i.env with clock := a.2, time := t, draws := i.env.draws + 1 } } (.now t))

/-- `ENGINE.configure(S.tx.held, S.rx.held)` (rules R190, R244, R245 (a)). -/
def Instance.configure (k : InstId) (i : Instance) : Bool × Instance :=
  let a := nextAnswer (Config.freeConfigure k i.env.draws) i.env.configure
  (a.1, Instance.logCall { i with env := { i.env with configure := a.2, draws := i.env.draws + 1 } }
    (.configure i.tx.held i.rx.held a.1))

/-- `ENGINE.transmit(pulses)` (rules R244, R245 (b)). -/
def Instance.transmit (k : InstId) (pulses : List PulsePair) (i : Instance) : Bool × Instance :=
  let a := nextAnswer (Config.freeTransmit k i.env.draws) i.env.transmit
  (a.1, Instance.logCall { i with env := { i.env with transmit := a.2, draws := i.env.draws + 1 } }
    (.transmit pulses a.1))

/-- `ENGINE.poll_capture()`: the sample it returns is gone from the engine (rules R69, R244, R245 (d)). -/
def Instance.pollCapture (k : InstId) (i : Instance) : Option RunSample × Instance :=
  let a := nextAnswer (Config.freeCapture k i.env.draws) i.env.capture
  (a.1, Instance.logCall { i with env := { i.env with capture := a.2, draws := i.env.draws + 1 } }
    (.pollCapture a.1))

end Sys2Proof.Machine
end

