-- ==== Sys2Proof/Machine/Operands.lean ====
section
/-! DEFINITION. How each operand reaches its format field (rule R93): the throttle map, the special code, the fields of a
frame and of a reply; and the throttle comparisons (rules R15, R193). -/

namespace Sys2Proof.Machine

/-- `round_half_up(q) = floor(q + 1/2)`, for q ≥ 0 (rule R11). -/
def roundHalfUp (q : Rat) : Nat := (q + 1 / 2).floor.toNat

/-- `xc` of rule R110: NaN, −Inf and negatives give 0, +Inf and values above 1 give 1. -/
def clampThrottle : ThrottleInput → Rat
  | .nan => 0
  | .negInf => 0
  | .posInf => 1
  | .finite q => if q < 0 then 0 else if 1 < q then 1 else q

/-- `encode_throttle(x)` (rule R110, decisions D1, D2). -/
def encodeThrottle (c : Config) (x : ThrottleInput) : U11 :=
  BitVec.ofNat 11 (minCode c + roundHalfUp (clampThrottle x * (throttleSpan c : Rat)))

/-- `encode_special(code) = min(code, 47)`, zero extended (rules R93 (b), R111). -/
def encodeSpecial (code : U8) : U11 := BitVec.ofNat 11 (min code.toNat 47)

/-- `x ≥ q`; false for NaN (rule R193, decision D26). -/
def throttleGe (x : ThrottleInput) (q : Rat) : Bool :=
  match x with
  | .finite r => decide (q ≤ r)
  | .posInf => true
  | .negInf => false
  | .nan => false

/-- `x ≤ q`; false for NaN (rule R193, decision D26). -/
def throttleLe (x : ThrottleInput) (q : Rat) : Bool :=
  match x with
  | .finite r => decide (r ≤ q)
  | .posInf => false
  | .negInf => true
  | .nan => false

/-- Bits 15:4 of a 16-bit word: the DShotValue12 of a frame, the payload of a reply (rules R62, R81, R89). -/
def wordPayload (w : U16) : U12 := w.extractLsb' 4 12

/-- Bits 3:0 of a 16-bit word: its CRC field (rules R62, R81, R89). -/
def wordCrc (w : U16) : U4 := w.extractLsb' 0 4

end Sys2Proof.Machine
end

