-- ==== Sys2Proof/Machine/Codec.lean ====
section
/-! DEFINITION. The datapath: PacketCodec's CRC, frame and check (rules R112 to R114), WaveformTranscoder's pulses and runs
(rules R130 to R134), BDShotDecoder's five steps (rules R150 to R160). Pure functions. -/

namespace Sys2Proof.Machine

/-! ### PacketCodec -/

/-- `crc4(p) = (p ^ (p >> 4) ^ (p >> 8)) & 0xF` (rules R82, R112). -/
def crc4 (p : U12) : U4 := (p ^^^ (p >>> 4) ^^^ (p >>> 8)).setWidth 4

/-- DShotValue12 = `(value11 << 1) | t` (rule R80). -/
def value12 (value11 : U11) (t : Bit) : U12 := (value11.setWidth 12 <<< 1) ||| t.setWidth 12

/-- `build_frame(value11, t)` (rule R113). -/
def buildFrame (value11 : U11) (t : Bit) : U16 :=
  let v12 := value12 value11 t
  (v12.setWidth 16 <<< 4) ||| (crc4 v12).setWidth 16

/-- `decode_and_validate(frame16)` (rule R114); the second component is always true (C6). -/
def decodeAndValidate (frame16 : U16) : Option (U12 × Bool) :=
  if crc4 (wordPayload frame16) = wordCrc frame16 then some (wordPayload frame16, true) else none

/-! ### WaveformTranscoder -/

/-- The pulse pair of one bit (rule R130). -/
def pulseOf (c : Config) (b : Bool) : PulsePair :=
  let high := if b then high1 c else high0 c
  { highTicks := BitVec.ofNat 16 high, lowTicks := BitVec.ofNat 16 (c.totalBitTicks - high) }

/-- `frame_to_pulses(frame16)`: pulse k carries frame bit 15 − k (rules R60, R131). -/
def frameToPulses (c : Config) (frame16 : U16) : List PulsePair :=
  (List.range 16).map fun k => pulseOf c (frame16.getLsbD (15 - k))

/-- The alternating run sequence, starting HIGH, up to the first position whose list is exhausted (rule R132). -/
def interleave : List Nat → List Nat → List Nat
  | [], _ => []
  | h :: _, [] => [h]
  | h :: hs, l :: ls => h :: l :: interleave hs ls

/-- `nbits(r, rbt)` (rule R133, decision D8). -/
def nbits (r rbt : Nat) : Nat := max 1 ((2 * r + rbt) / (2 * rbt))

/-- The loop of rule R134: each run appends its bits at the current polarity, cut at 21, and the polarity toggles. -/
def collectBits (rbt : Nat) : List Nat → Bool → List Bool → List Bool
  | [], _, acc => acc
  | r :: rest, pol, acc =>
    if acc.length = 21 then acc
    else collectBits rbt rest (!pol) (acc ++ List.replicate (min (nbits r rbt) (21 - acc.length)) pol)

/-- The accumulator before the first run (rule R134, decision D11). -/
def leadBits : LeadBitMode → List Bool
  | .synthetic => [false]
  | .captured => []

/-- Bits in order of arrival as a number, the first most significant (rule R61, decision D12). -/
def bitsToNat (l : List Bool) : Nat := l.foldl (fun n b => 2 * n + b.toNat) 0

/-- `runs_to_bits(high_runs, low_runs, reply_bit_ticks)` (rule R134). -/
def runsToBits (c : Config) (highRuns lowRuns : List Nat) (rbt : Nat) : Option U21 :=
  if rbt = 0 then none
  else
    let acc := collectBits rbt (interleave highRuns lowRuns) true (leadBits c.leadBitMode)
    if acc.length < 21 then none else some (BitVec.ofNat 21 (bitsToNat acc))

/-! ### BDShotDecoder -/

/-- Step 2, `(n21 ^ (n21 >> 1)) & 0xFFFFF` (rule R151). -/
def nrziToGcr (n21 : U21) : U20 := (n21 ^^^ (n21 >>> 1)).setWidth 20

/-- One lookup in GCR_TABLE (rules R92, R153). -/
def gcrLookup (c : Config) (code : U5) : Option U4 := c.gcrTable.getD code.toNat none

/-- The four nibbles of a reply, `n3` received first (rule R89). -/
structure Nibbles where
  n3 : U4
  n2 : U4
  n1 : U4
  n0 : U4
  deriving DecidableEq, Repr

/-- Step 3: split MSB first and look up; any invalid group fails (rules R152, R153). -/
def gcrToNibbles (c : Config) (gcr20 : U20) : Option Nibbles :=
  match gcrLookup c (gcr20.extractLsb' 15 5), gcrLookup c (gcr20.extractLsb' 10 5),
    gcrLookup c (gcr20.extractLsb' 5 5), gcrLookup c (gcr20.extractLsb' 0 5) with
  | some a, some b, some d, some e => some { n3 := a, n2 := b, n1 := d, n0 := e }
  | _, _, _, _ => none

/-- Step 4, first half: `(nibs[3] << 12) | (nibs[2] << 8) | (nibs[1] << 4) | nibs[0]` (rules R89, R154). -/
def assembleReply (n : Nibbles) : U16 :=
  (n.n3.setWidth 16 <<< 12) ||| (n.n2.setWidth 16 <<< 8) ||| (n.n1.setWidth 16 <<< 4) ||| n.n0.setWidth 16

/-- `erpm(p)` (rule R160, decision D14). -/
def erpm (p : U12) : Nat :=
  let e := (p.extractLsb' 9 3).toNat
  let m := (p.extractLsb' 0 9).toNat
  60000000 / (max m 1 * 2 ^ e)

/-- The kind of an extended-telemetry payload by its type code, bits 11:8 (rule R155). -/
def edtKind (p : U12) : TelemetryKind :=
  let type := p.extractLsb' 8 4
  if type = 0x2#4 then .edtTemperature
  else if type = 0x4#4 then .edtVoltage
  else if type = 0x6#4 then .edtCurrent
  else .edtOther

/-- Step 5, `classify(p, crc)`: payload bit 8 alone tells extended telemetry from eRPM (rule R155). -/
def classify (p : U12) (crc : U4) : TelemetryFrame :=
  if p.getLsbD 8 = false then
    { kind := edtKind p, payload12 := p, crc4 := crc, value := (p.extractLsb' 0 8).toNat }
  else
    { kind := .erpm, payload12 := p, crc4 := crc, value := erpm p }

/-- Steps 4 and 5 on a reply value: check the CRC, then classify (rules R154, R155). -/
def readReply (v16 : U16) : Option TelemetryFrame :=
  (decodeAndValidate v16).map fun r => classify r.1 (wordCrc v16)

/-- `decode(high_runs, low_runs, reply_bit_ticks)` without its diag (rule R150). -/
def decodeReply (c : Config) (highRuns lowRuns : List Nat) (rbt : Nat) : Option TelemetryFrame :=
  (runsToBits c highRuns lowRuns rbt).bind fun n21 =>
    (gcrToNibbles c (nrziToGcr n21)).bind fun nibs => readReply (assembleReply nibs)

end Sys2Proof.Machine
end

