-- ==== Sys2Proof/Machine/Flags.lean ====
section
/-! DEFINITION. The one-bit and control state of an instance and how it moves (rules R31, R37): the hysteresis and arm
transitions of the link, the rate gate, the telemetry cadence, the cache's fresh flag. -/

namespace Sys2Proof.Machine

/-- `hysteresis(S, x)`: the throttle used, and the link it leaves (rule R193). A disarmed link is never asked (rule R192) and
stays as it is (C13). -/
def hysteresis (link : Link) (x : ThrottleInput) : ThrottleInput × Link :=
  match link with
  | .disarmed => (x, .disarmed)
  | .armedZero => if throttleGe x exitThreshold then (x, .armedActive) else (.finite 0, .armedZero)
  | .armedActive => if throttleLe x enterThreshold then (.finite 0, .armedZero) else (x, .armedActive)

/-- The link after `arm(on)` (rules R191, R206; decision D23). -/
def armLink (on : Bool) (link : Link) : Link :=
  match on, link with
  | true, .disarmed => .armedZero
  | true, .armedZero => .armedZero
  | true, .armedActive => .armedActive
  | false, _ => .disarmed

/-- Whether the commanding operations do anything: initialized and not Disarmed (rules R192, R195). -/
def Instance.commandable (i : Instance) : Bool := i.initialized && decide (i.link ≠ .disarmed)

/-- `rate_gate(S, now)` (rule R194). -/
def Instance.rateGate (now : Nat) (i : Instance) : Bool × Instance :=
  if now < i.nextDue then (false, i.diag .rateLimited)
  else (true, { i with nextDue := now + i.periodUs })

/-- The cadence step of a scheduled transmission: the telemetry-request bit and the counter it leaves (rule R196, decision
D29). -/
def cadence (divisor counter : Nat) : Bit × Nat :=
  if divisor ≤ counter + 1 then (1#1, 0) else (0#1, counter + 1)

/-- `cache_update(S, tf)` (rule R199). -/
def cacheUpdate (c : Config) (polePairs : Nat) (tf : TelemetryFrame) (old : Cache) : Cache :=
  let new := { old with frame := some tf, fresh := true }
  match tf.kind with
  | .erpm => { new with rpm := BitVec.ofNat 16 (min (tf.value / polePairs) 65535) }
  | .edtTemperature => { new with temperature := (tf.value : Rat) * c.kTemp }
  | .edtVoltage => { new with voltage := (tf.value : Rat) * c.kVolt }
  | .edtCurrent => { new with current := (tf.value : Rat) * c.kCurr }
  | .edtOther => new

/-- `read_telemetry()` on the cache: only the flag is cleared (rule R204). -/
def readCache (old : Cache) : Option TelemetryFrame × Cache :=
  if old.fresh then (old.frame, { old with fresh := false }) else (none, old)

end Sys2Proof.Machine
end

