-- ==== Sys2Proof/Machine/Allocator.lean ====
section
/-! DEFINITION. The meanings of ChannelAllocator's operations (rules R170 to R177), each one atomic step (rule R66). -/

namespace Sys2Proof.Machine

/-- Acquire from a range, and return the index (rules R170, R171). -/
def acquireIndex (first last : Nat) (s : State) : State :=
  let r := poolAcquire first last s.pool
  (s.setPool r.2).ret (.index r.1)

/-- `ALLOC.acquire_any()`: the scan of `0 .. N − 1` (rule R170). -/
def execAllocAcquireAny (s : State) : Host.Outcome State Fault Refusal :=
  .next (acquireIndex 0 (s.pool.length - 1) s)

/-- `ALLOC.acquire_in_range(first, last)` (rule R171). -/
def execAllocAcquireInRange (first last : Nat) (s : State) : Host.Outcome State Fault Refusal :=
  .next (acquireIndex first last s)

/-- `ALLOC.release(index)` (rule R172). -/
def execAllocRelease (index : Nat) (s : State) : Host.Outcome State Fault Refusal :=
  .next ((s.setPool (poolRelease index s.pool)).ret .unit)

/-- `ALLOC.count_free()` (rule R176). -/
def execAllocCountFree (s : State) : Host.Outcome State Fault Refusal :=
  .next (s.ret (.nat (poolCountFree s.pool)))

/-- `ALLOC.is_taken(index)` (rule R177). -/
def execAllocIsTaken (index : Nat) (s : State) : Host.Outcome State Fault Refusal :=
  .next (s.ret (.bool (poolTaken s.pool index)))

end Sys2Proof.Machine
end

