-- ==== Sys2Proof/Machine/Leases.lean ====
section
/-! DEFINITION. The meanings of the operations on standalone leases (rules R180 to R184), each one atomic step (rule R67). A
lease the host has destroyed may not be named again (rule R184, V3). -/

namespace Sys2Proof.Machine

/-- Issue an operation on a lease whose life has not ended. -/
def onLease (l : LeaseId) (s : State) (f : LeaseSlot → State) : Host.Outcome State Fault Refusal :=
  let slot := s.lease l
  if slot.destroyed then .refused (.leaseDestroyed l) else .next (f slot)

/-- A lease after an acquire over a range (rules R180, R181). -/
def leaseAcquireState (l : LeaseId) (first last : Nat) (slot : LeaseSlot) (s : State) : State :=
  let r := leaseAcquire first last slot.lease s.pool
  ((s.setPool r.pool).setLease l { slot with lease := r.lease }).ret (.bool r.ok)

/-- A lease after a release, and whether its life goes on (rules R182, R184). -/
def leaseReleaseState (l : LeaseId) (destroy : Bool) (slot : LeaseSlot) (s : State) : State :=
  let r := leaseRelease slot.lease s.pool
  ((s.setPool r.2).setLease l { slot with lease := r.1, destroyed := destroy }).ret .unit

/-- `L.acquire_any()` (rule R180). -/
def execLeaseAcquireAny (l : LeaseId) (s : State) : Host.Outcome State Fault Refusal :=
  onLease l s fun slot => leaseAcquireState l 0 (s.pool.length - 1) slot s

/-- `L.acquire_in_range(first, last)` (rule R181). -/
def execLeaseAcquireInRange (l : LeaseId) (first last : Nat) (s : State) : Host.Outcome State Fault Refusal :=
  onLease l s fun slot => leaseAcquireState l first last slot s

/-- `L.release()` (rule R182). -/
def execLeaseRelease (l : LeaseId) (s : State) : Host.Outcome State Fault Refusal :=
  onLease l s fun slot => leaseReleaseState l false slot s

/-- `L.destroy()`: a release, and the lease's life ends (rule R184). -/
def execLeaseDestroy (l : LeaseId) (s : State) : Host.Outcome State Fault Refusal :=
  onLease l s fun slot => leaseReleaseState l true slot s

/-- `L.disown()`: the index leaves the lease and stays Taken (rule R183, decision D19). -/
def execLeaseDisown (l : LeaseId) (s : State) : Host.Outcome State Fault Refusal :=
  onLease l s fun slot =>
    (s.setLease l { slot with lease := { held := none } }).ret (.index slot.lease.held)

end Sys2Proof.Machine
end

