-- ==== Sys2Proof/Machine/Scheduler.lean ====
section
/-! DEFINITION. EscLinkScheduler's commanding and reading operations (rules R191 to R204), which touch one instance and no
pool entry, over the internal procedures of rules R196 to R199. -/

namespace Sys2Proof.Machine

/-! ### Internal procedures -/

/-- Build, turn into pulses and transmit a frame; a success joins the log of frames sent (rules R196, R197, R41), a failure
is noted (rule R230). -/
def Instance.sendFrame (c : Config) (k : InstId) (frame : U16) (i : Instance) : Bool × Instance :=
  match Instance.transmit k (frameToPulses c frame) i with
  | (true, j) => (true, { j with txLog := j.txLog ++ [frame] })
  | (false, j) => (false, j.diag .transmitFailed)

/-- What a capture does to the instance: a frame updates the cache, a failed decode is noted and changes nothing else, no
sample does nothing (rules R198, R199, R232). -/
def Instance.takeCapture (c : Config) (sample : Option RunSample) (i : Instance) : Instance :=
  match sample with
  | none => i
  | some r =>
    match decodeReply c r.highRuns r.lowRuns c.replyBitTicks with
    | some tf => { i with cache := cacheUpdate c i.polePairs tf i.cache }
    | none => i.diag .decodeInvalid

/-- `receive_window(S)`: open, poll once, close, then decode (rule R198, decision D32). -/
def Instance.receiveWindow (c : Config) (k : InstId) (i : Instance) : Instance :=
  match Instance.pollCapture k (i.logCall .beginReceiveWindow) with
  | (sample, j) => Instance.takeCapture c sample (j.logCall .endReceiveWindow)

/-- `scheduled_transmit(S, value11)` (rule R196). -/
def Instance.scheduledTransmit (c : Config) (k : InstId) (value11 : U11) (i : Instance) : Bool × Instance :=
  let step := cadence i.divisor i.counter
  match Instance.sendFrame c k (buildFrame value11 step.1) { i with counter := step.2 } with
  | (false, j) => (false, j)
  | (true, j) => (true, if step.1 = 1#1 ∧ j.rx.held ≠ none then Instance.receiveWindow c k j else j)

/-- `forced_transmit(S)`: the idle frame, outside the gate and the cadence (rule R197, decision D24). -/
def Instance.forcedTransmit (c : Config) (k : InstId) (i : Instance) : Instance :=
  (Instance.sendFrame c k (buildFrame c.idleCode 0#1) i).2

/-- What `write_normalized` and `send_special` share past the armed check: read the clock, pass the gate, transmit (rules
R192, R194, R195). -/
def Instance.gatedTransmit (c : Config) (k : InstId) (value11 : U11) (i : Instance) : Bool × Instance :=
  match Instance.now k i with
  | (now, j) =>
    match Instance.rateGate now j with
    | (false, g) => (false, g)
    | (true, g) => Instance.scheduledTransmit c k value11 g

/-! ### The operations on one instance -/

/-- `S.arm(on)` (rule R191). -/
def Instance.arm (c : Config) (k : InstId) (on : Bool) (i : Instance) : Instance :=
  let j := { i with link := armLink on i.link }
  if on = false ∧ i.initialized = true then Instance.forcedTransmit c k j else j

/-- `S.write_normalized(x)`: the hysteresis step comes before the gate, and its write to the link stays (rules R192, R234;
decision D25). -/
def Instance.writeNormalized (c : Config) (k : InstId) (x : ThrottleInput) (i : Instance) : Bool × Instance :=
  if i.commandable then
    let h := hysteresis i.link x
    Instance.gatedTransmit c k (encodeThrottle c h.1) { i with link := h.2 }
  else (false, i)

/-- `S.send_special(code)` (rule R195). -/
def Instance.sendSpecial (c : Config) (k : InstId) (code : U8) (i : Instance) : Bool × Instance :=
  if i.commandable then Instance.gatedTransmit c k (encodeSpecial code) i else (false, i)

/-- `S.read_telemetry()` (rule R204). -/
def Instance.readTelemetry (i : Instance) : Option TelemetryFrame × Instance :=
  let r := readCache i.cache
  (r.1, { i with cache := r.2 })

/-! ### Meanings -/

/-- Issue an operation on an instance that has none in flight (rule R68, V2). -/
def onInstance (k : InstId) (s : State) (f : Instance → Result × Instance) : Host.Outcome State Fault Refusal :=
  let i := s.inst k
  match i.busy with
  | some _ => .refused (.overlap k)
  | none => .next ((s.setInst k (f i).2).ret (f i).1)

/-- `S.arm(on)` (rule R191). -/
def execSchedArm (k : InstId) (on : Bool) (s : State) : Host.Outcome State Fault Refusal :=
  onInstance k s fun i => (.unit, Instance.arm (s.instCfg k) k on i)

/-- `S.write_normalized(x)` (rule R192). -/
def execSchedWriteNormalized (k : InstId) (x : ThrottleInput) (s : State) : Host.Outcome State Fault Refusal :=
  onInstance k s fun i => (.bool (Instance.writeNormalized (s.instCfg k) k x i).1, (Instance.writeNormalized (s.instCfg k) k x i).2)

/-- `S.send_special(code)` (rule R195). -/
def execSchedSendSpecial (k : InstId) (code : U8) (s : State) : Host.Outcome State Fault Refusal :=
  onInstance k s fun i => (.bool (Instance.sendSpecial (s.instCfg k) k code i).1, (Instance.sendSpecial (s.instCfg k) k code i).2)

/-- `S.read_telemetry()` (rule R204). -/
def execSchedReadTelemetry (k : InstId) (s : State) : Host.Outcome State Fault Refusal :=
  onInstance k s fun i => (.telemetry (Instance.readTelemetry i).1, (Instance.readTelemetry i).2)

end Sys2Proof.Machine
end

