-- ==== Sys2Proof/Machine/Lifecycle.lean ====
section
/-! DEFINITION. `S.begin()` and `S.end()` (rules R190, R205): the steps they are made of, the operations as a whole, and the
steps taken one at a time, between which other operations may run (rules R68, R251, R280). -/

namespace Sys2Proof.Machine

/-! ### Steps -/

/-- Acquire the transmit lease from TX_RANGE. -/
def beginTx (k : InstId) (s : State) : Bool × State :=
  let i := s.inst k
  let r := leaseAcquire (s.instCfg k).txRange.1 (s.instCfg k).txRange.2 i.tx s.pool
  (r.ok, (s.setPool r.pool).setInst k { i with tx := r.lease })

/-- Acquire the receive lease from RX_RANGE. -/
def beginRx (k : InstId) (s : State) : Bool × State :=
  let i := s.inst k
  let r := leaseAcquire (s.instCfg k).rxRange.1 (s.instCfg k).rxRange.2 i.rx s.pool
  (r.ok, (s.setPool r.pool).setInst k { i with rx := r.lease })

/-- Have the engine configured. -/
def beginConfigure (k : InstId) (s : State) : Bool × State :=
  let r := Instance.configure k (s.inst k)
  (r.1, s.setInst k r.2)

/-- The fields `begin` and `end` set to their reset values (rules R32, R190, R205). -/
def Instance.restart (initialized : Bool) (i : Instance) : Instance :=
  { i with link := .disarmed, nextDue := 0, counter := 0, cache := Cache.initial, initialized := initialized }

/-- A `begin` that succeeds. -/
def beginCommit (k : InstId) (s : State) : State :=
  (s.setInst k (Instance.restart true (s.inst k))).ret (.bool true)

/-- A `begin` that fails, its leases released: the failure is noted, the result is false. -/
def beginFail (k : InstId) (why : Diag) (s : State) : State :=
  (s.setInst k ((s.inst k).diag why)).ret (.bool false)

/-- `S.tx.release()`. -/
def releaseTx (k : InstId) (s : State) : State :=
  let i := s.inst k
  let r := leaseRelease i.tx s.pool
  (s.setPool r.2).setInst k { i with tx := r.1 }

/-- `S.rx.release()`. -/
def releaseRx (k : InstId) (s : State) : State :=
  let i := s.inst k
  let r := leaseRelease i.rx s.pool
  (s.setPool r.2).setInst k { i with rx := r.1 }

/-- The final idle transmission of `end`. -/
def endTransmit (k : InstId) (s : State) : State :=
  s.setInst k (Instance.forcedTransmit (s.instCfg k) k (s.inst k))

/-- The fields `end` resets, and its return. -/
def endReset (k : InstId) (s : State) : State :=
  (s.setInst k (Instance.restart false (s.inst k))).ret .unit

/-! ### The operations as a whole -/

/-- `S.begin()` on an instance that is not initialized (rule R190). -/
def beginRun (k : InstId) (s : State) : State :=
  match beginTx k s with
  | (false, s1) => beginFail k .resourceExhausted s1
  | (true, s1) =>
    match (if (s1.instCfg k).bidir then beginRx k s1 else (true, s1)) with
    | (false, s2) => beginFail k .resourceExhausted (releaseTx k s2)
    | (true, s2) =>
      match beginConfigure k s2 with
      | (false, s3) => beginFail k .hardwareConfigFailed (releaseTx k (releaseRx k s3))
      | (true, s3) => beginCommit k s3

/-- `S.end()` (rule R205); an instance that is not initialized only has its fields reset. -/
def endRun (k : InstId) (s : State) : State :=
  if (s.inst k).initialized then endReset k (releaseTx k (releaseRx k (endTransmit k s))) else endReset k s

/-- `S.begin()`; on an initialized instance it has no meaning (rule R190, V1). -/
def execSchedBegin (k : InstId) (s : State) : Host.Outcome State Fault Refusal :=
  match (s.inst k).busy with
  | some _ => .refused (.overlap k)
  | none => if (s.inst k).initialized then .refused (.beginWhileInitialized k) else .next (beginRun k s)

/-- `S.end()` (rule R205). -/
def execSchedEnd (k : InstId) (s : State) : Host.Outcome State Fault Refusal :=
  match (s.inst k).busy with
  | some _ => .refused (.overlap k)
  | none => .next (endRun k s)

/-! ### One step at a time -/

/-- One step of the operation in flight, and where it then stands; `none` when it has returned. -/
def advance (k : InstId) (at_ : Phase) (s : State) : State × Option Phase :=
  match at_ with
  | .beginTx =>
    match beginTx k s with
    | (false, s1) => (beginFail k .resourceExhausted s1, none)
    | (true, s1) => (s1, some (if (s1.instCfg k).bidir then .beginRx else .beginConfigure))
  | .beginRx =>
    match beginRx k s with
    | (false, s1) => (s1, some (.undoTx .resourceExhausted))
    | (true, s1) => (s1, some .beginConfigure)
  | .beginConfigure =>
    match beginConfigure k s with
    | (false, s1) => (s1, some (.undoRx .hardwareConfigFailed))
    | (true, s1) => (beginCommit k s1, none)
  | .undoRx why => (releaseRx k s, some (.undoTx why))
  | .undoTx why => (beginFail k why (releaseTx k s), none)
  | .endTransmit => (endTransmit k s, some .endRx)
  | .endRx => (releaseRx k s, some .endTx)
  | .endTx => (endReset k (releaseTx k s), none)
  | .endReset => (endReset k s, none)

/-- Note where the operation in flight on an instance stands. -/
def State.setBusy (s : State) (k : InstId) (p : Option Phase) : State := s.setInst k { s.inst k with busy := p }

/-- The operation in flight on an instance takes its next step; an instance with none stays as it is. -/
def resumeInst (k : InstId) (s : State) : State :=
  match (s.inst k).busy with
  | none => s
  | some p => ((advance k p s).1).setBusy k (advance k p s).2

/-- Leave a `begin` in flight. -/
def startBegin (k : InstId) (s : State) : Host.Outcome State Fault Refusal :=
  match (s.inst k).busy with
  | some _ => .refused (.overlap k)
  | none =>
    if (s.inst k).initialized then .refused (.beginWhileInitialized k) else .next (s.setBusy k (some .beginTx))

/-- Leave an `end` in flight. -/
def startEnd (k : InstId) (s : State) : Host.Outcome State Fault Refusal :=
  match (s.inst k).busy with
  | some _ => .refused (.overlap k)
  | none => .next (s.setBusy k (some (if (s.inst k).initialized then .endTransmit else .endReset)))

end Sys2Proof.Machine
end

