-- ==== Sys2Proof/Machine/PacketCodec.lean ====
section
/-! DEFINITION. The meanings of PacketCodec's five operations (rules R110 to R114): pure, total, no state but the result. -/

namespace Sys2Proof.Machine

/-- `encode_throttle(x)` (rule R110). -/
def execEncodeThrottle (x : ThrottleInput) (s : State) : Host.Outcome State Fault Refusal :=
  .next (s.ret (.u11 (encodeThrottle s.cfg x)))

/-- `encode_special(code)` (rule R111). -/
def execEncodeSpecial (code : U8) (s : State) : Host.Outcome State Fault Refusal :=
  .next (s.ret (.u11 (encodeSpecial code)))

/-- `crc4(p)` (rule R112). -/
def execCrc4 (p : U12) (s : State) : Host.Outcome State Fault Refusal :=
  .next (s.ret (.u4 (crc4 p)))

/-- `build_frame(value11, t)` (rule R113). -/
def execBuildFrame (value11 : U11) (t : Bit) (s : State) : Host.Outcome State Fault Refusal :=
  .next (s.ret (.u16 (buildFrame value11 t)))

/-- `decode_and_validate(frame16)` (rule R114). -/
def execDecodeAndValidate (frame16 : U16) (s : State) : Host.Outcome State Fault Refusal :=
  .next (s.ret (.payload (decodeAndValidate frame16)))

end Sys2Proof.Machine
end

