-- ==== Sys2Proof/Machine/Transcoder.lean ====
section
/-! DEFINITION. The meanings of WaveformTranscoder's two operations (rules R131, R134) and of BDShotDecoder's one (rule
R150): pure but for the decoder's DecodeInvalid note. -/

namespace Sys2Proof.Machine

/-- `frame_to_pulses(frame16)` (rule R131). -/
def execFrameToPulses (frame16 : U16) (s : State) : Host.Outcome State Fault Refusal :=
  .next (s.ret (.pulses (frameToPulses s.cfg frame16)))

/-- `runs_to_bits(high_runs, low_runs, reply_bit_ticks)` (rule R134). -/
def execRunsToBits (highRuns lowRuns : List Nat) (rbt : Nat) (s : State) : Host.Outcome State Fault Refusal :=
  .next (s.ret (.nrzi (runsToBits s.cfg highRuns lowRuns rbt)))

/-- `decode(high_runs, low_runs, reply_bit_ticks)` (rule R150). -/
def execDecode (highRuns lowRuns : List Nat) (rbt : Nat) (s : State) : Host.Outcome State Fault Refusal :=
  .next (s.retDecoded (decodeReply s.cfg highRuns lowRuns rbt))

end Sys2Proof.Machine
end

