-- ==== Sys2Proof/Machine/WireFormats.lean ====
section
/-! DEFINITION. The meanings of the wire-format rows: what the core reads in such a word when it is presented to it (rules
R81, R87, R90 to R92; log entry 7). A word whose CRC field does not match is read as nothing: the result is `None` and no
state of the core changes (rules R94 (b), R114). -/

namespace Sys2Proof.Machine

/-! ### Command frames: PacketCodec's check of a received 16-bit word (rules R81, R114) -/

/-- `DSHOT_FRAME_THROTTLE`: the value and the telemetry flag of a frame whose CRC holds (rules R81, R83, R114). -/
def execDshotFrameThrottle (value11 : U11) (t : Bit) (crc : U4) (s : State) : Host.Outcome State Fault Refusal :=
  .next (s.ret (.command ((decodeAndValidate (frameWord value11 t crc)).map fun _ => .throttle value11 t)))

/-- `DSHOT_FRAME_SPECIAL`: the code, zero extended, and the telemetry flag of a frame whose CRC holds (rules R81, R83, R114). -/
def execDshotFrameSpecial (code : BitVec 6) (t : Bit) (crc : U4) (s : State) : Host.Outcome State Fault Refusal :=
  .next (s.ret (.command ((decodeAndValidate (frameWord (code.setWidth 11) t crc)).map fun _ => .special (code.setWidth 11) t)))

/-! ### Reply values: BDShotDecoder's steps 4 and 5 (rules R154, R155) -/

/-- `REPLY_ERPM` (rules R90, R155, R160). -/
def execReplyErpm (e : BitVec 3) (m : U8) (crc : U4) (s : State) : Host.Outcome State Fault Refusal :=
  .next (s.retDecoded (readReply (replyWord e 1#1 m crc)))

/-- `REPLY_EDT_TEMPERATURE` (rules R91, R155). -/
def execReplyEdtTemperature (raw : U8) (crc : U4) (s : State) : Host.Outcome State Fault Refusal :=
  .next (s.retDecoded (readReply (replyWord 1#3 0#1 raw crc)))

/-- `REPLY_EDT_VOLTAGE` (rules R91, R155). -/
def execReplyEdtVoltage (raw : U8) (crc : U4) (s : State) : Host.Outcome State Fault Refusal :=
  .next (s.retDecoded (readReply (replyWord 2#3 0#1 raw crc)))

/-- `REPLY_EDT_CURRENT` (rules R91, R155). -/
def execReplyEdtCurrent (raw : U8) (crc : U4) (s : State) : Host.Outcome State Fault Refusal :=
  .next (s.retDecoded (readReply (replyWord 3#3 0#1 raw crc)))

/-- `REPLY_EDT_OTHER` (rules R91, R155). -/
def execReplyEdtOther (ty : BitVec 3) (raw : U8) (crc : U4) (s : State) : Host.Outcome State Fault Refusal :=
  .next (s.retDecoded (readReply (replyWord ty 0#1 raw crc)))

/-! ### The NRZI word: step 2 (rules R87, R88, R151) -/

/-- `NRZI_WORD`: its GCR word. -/
def execNrziWord (lead : Bit) (levels : U20) (s : State) : Host.Outcome State Fault Refusal :=
  .next (s.ret (.u20 (nrziToGcr (nrziWord lead levels))))

/-! ### GCR codes: one lookup of step 3 in the configured table (rules R92, R153) -/

/-- A five-bit code presented to the core: its entry in the configured table is returned, `None` where it is marked invalid, and
nothing else changes (rules R92, R94 (c) and (f), R153; log entries 7 and 24). -/
def lookUpCode (code : U5) (s : State) : State := s.ret (.nibble (gcrLookup s.cfg code))

/-- `GCR_NIBBLE_0`: the table's entry for code 0x19 (rule R92). -/
def execGcrNibble0 (s : State) : Host.Outcome State Fault Refusal := .next (lookUpCode 0x19#5 s)

/-- `GCR_NIBBLE_1`: the table's entry for code 0x1B (rule R92). -/
def execGcrNibble1 (s : State) : Host.Outcome State Fault Refusal := .next (lookUpCode 0x1B#5 s)

/-- `GCR_NIBBLE_2`: the table's entry for code 0x12 (rule R92). -/
def execGcrNibble2 (s : State) : Host.Outcome State Fault Refusal := .next (lookUpCode 0x12#5 s)

/-- `GCR_NIBBLE_3`: the table's entry for code 0x13 (rule R92). -/
def execGcrNibble3 (s : State) : Host.Outcome State Fault Refusal := .next (lookUpCode 0x13#5 s)

/-- `GCR_NIBBLE_4`: the table's entry for code 0x1D (rule R92). -/
def execGcrNibble4 (s : State) : Host.Outcome State Fault Refusal := .next (lookUpCode 0x1D#5 s)

/-- `GCR_NIBBLE_5`: the table's entry for code 0x15 (rule R92). -/
def execGcrNibble5 (s : State) : Host.Outcome State Fault Refusal := .next (lookUpCode 0x15#5 s)

/-- `GCR_NIBBLE_6`: the table's entry for code 0x16 (rule R92). -/
def execGcrNibble6 (s : State) : Host.Outcome State Fault Refusal := .next (lookUpCode 0x16#5 s)

/-- `GCR_NIBBLE_7`: the table's entry for code 0x17 (rule R92). -/
def execGcrNibble7 (s : State) : Host.Outcome State Fault Refusal := .next (lookUpCode 0x17#5 s)

/-- `GCR_NIBBLE_8`: the table's entry for code 0x1A (rule R92). -/
def execGcrNibble8 (s : State) : Host.Outcome State Fault Refusal := .next (lookUpCode 0x1A#5 s)

/-- `GCR_NIBBLE_9`: the table's entry for code 0x09 (rule R92). -/
def execGcrNibble9 (s : State) : Host.Outcome State Fault Refusal := .next (lookUpCode 0x09#5 s)

/-- `GCR_NIBBLE_A`: the table's entry for code 0x0A (rule R92). -/
def execGcrNibbleA (s : State) : Host.Outcome State Fault Refusal := .next (lookUpCode 0x0A#5 s)

/-- `GCR_NIBBLE_B`: the table's entry for code 0x0B (rule R92). -/
def execGcrNibbleB (s : State) : Host.Outcome State Fault Refusal := .next (lookUpCode 0x0B#5 s)

/-- `GCR_NIBBLE_C`: the table's entry for code 0x1E (rule R92). -/
def execGcrNibbleC (s : State) : Host.Outcome State Fault Refusal := .next (lookUpCode 0x1E#5 s)

/-- `GCR_NIBBLE_D`: the table's entry for code 0x0D (rule R92). -/
def execGcrNibbleD (s : State) : Host.Outcome State Fault Refusal := .next (lookUpCode 0x0D#5 s)

/-- `GCR_NIBBLE_E`: the table's entry for code 0x0E (rule R92). -/
def execGcrNibbleE (s : State) : Host.Outcome State Fault Refusal := .next (lookUpCode 0x0E#5 s)

/-- `GCR_NIBBLE_F`: the table's entry for code 0x0F (rule R92). -/
def execGcrNibbleF (s : State) : Host.Outcome State Fault Refusal := .next (lookUpCode 0x0F#5 s)

end Sys2Proof.Machine
end

