-- ==== Sys2Proof/Machine/Dispatch.lean ====
section
/-! DEFINITION. One arm per instruction. -/

namespace Sys2Proof.Machine

def exec (i : Instr) (s : State) : Host.Outcome State Fault Refusal :=
  match i with
  | .dshotFrameThrottle value11 t crc => Sys2Proof.Machine.execDshotFrameThrottle value11 t crc s
  | .dshotFrameSpecial code t crc => Sys2Proof.Machine.execDshotFrameSpecial code t crc s
  | .replyErpm e m crc => Sys2Proof.Machine.execReplyErpm e m crc s
  | .replyEdtTemperature raw crc => Sys2Proof.Machine.execReplyEdtTemperature raw crc s
  | .replyEdtVoltage raw crc => Sys2Proof.Machine.execReplyEdtVoltage raw crc s
  | .replyEdtCurrent raw crc => Sys2Proof.Machine.execReplyEdtCurrent raw crc s
  | .replyEdtOther ty raw crc => Sys2Proof.Machine.execReplyEdtOther ty raw crc s
  | .nrziWord lead levels => Sys2Proof.Machine.execNrziWord lead levels s
  | .gcrNibble0 => Sys2Proof.Machine.execGcrNibble0 s
  | .gcrNibble1 => Sys2Proof.Machine.execGcrNibble1 s
  | .gcrNibble2 => Sys2Proof.Machine.execGcrNibble2 s
  | .gcrNibble3 => Sys2Proof.Machine.execGcrNibble3 s
  | .gcrNibble4 => Sys2Proof.Machine.execGcrNibble4 s
  | .gcrNibble5 => Sys2Proof.Machine.execGcrNibble5 s
  | .gcrNibble6 => Sys2Proof.Machine.execGcrNibble6 s
  | .gcrNibble7 => Sys2Proof.Machine.execGcrNibble7 s
  | .gcrNibble8 => Sys2Proof.Machine.execGcrNibble8 s
  | .gcrNibble9 => Sys2Proof.Machine.execGcrNibble9 s
  | .gcrNibbleA => Sys2Proof.Machine.execGcrNibbleA s
  | .gcrNibbleB => Sys2Proof.Machine.execGcrNibbleB s
  | .gcrNibbleC => Sys2Proof.Machine.execGcrNibbleC s
  | .gcrNibbleD => Sys2Proof.Machine.execGcrNibbleD s
  | .gcrNibbleE => Sys2Proof.Machine.execGcrNibbleE s
  | .gcrNibbleF => Sys2Proof.Machine.execGcrNibbleF s
  | .encodeThrottle x => Sys2Proof.Machine.execEncodeThrottle x s
  | .encodeSpecial code => Sys2Proof.Machine.execEncodeSpecial code s
  | .crc4 p => Sys2Proof.Machine.execCrc4 p s
  | .buildFrame value11 t => Sys2Proof.Machine.execBuildFrame value11 t s
  | .decodeAndValidate frame16 => Sys2Proof.Machine.execDecodeAndValidate frame16 s
  | .frameToPulses frame16 => Sys2Proof.Machine.execFrameToPulses frame16 s
  | .runsToBits highRuns lowRuns replyBitTicks => Sys2Proof.Machine.execRunsToBits highRuns lowRuns replyBitTicks s
  | .decode highRuns lowRuns replyBitTicks => Sys2Proof.Machine.execDecode highRuns lowRuns replyBitTicks s
  | .allocAcquireAny => Sys2Proof.Machine.execAllocAcquireAny s
  | .allocAcquireInRange first last => Sys2Proof.Machine.execAllocAcquireInRange first last s
  | .allocRelease index => Sys2Proof.Machine.execAllocRelease index s
  | .allocCountFree => Sys2Proof.Machine.execAllocCountFree s
  | .allocIsTaken index => Sys2Proof.Machine.execAllocIsTaken index s
  | .leaseAcquireAny lease => Sys2Proof.Machine.execLeaseAcquireAny lease s
  | .leaseAcquireInRange lease first last => Sys2Proof.Machine.execLeaseAcquireInRange lease first last s
  | .leaseRelease lease => Sys2Proof.Machine.execLeaseRelease lease s
  | .leaseDestroy lease => Sys2Proof.Machine.execLeaseDestroy lease s
  | .schedBegin inst => Sys2Proof.Machine.execSchedBegin inst s
  | .schedArm inst on => Sys2Proof.Machine.execSchedArm inst on s
  | .schedWriteNormalized inst x => Sys2Proof.Machine.execSchedWriteNormalized inst x s
  | .schedSendSpecial inst code => Sys2Proof.Machine.execSchedSendSpecial inst code s
  | .schedReadTelemetry inst => Sys2Proof.Machine.execSchedReadTelemetry inst s
  | .schedEnd inst => Sys2Proof.Machine.execSchedEnd inst s
  | .leaseDisown lease => Sys2Proof.Machine.execLeaseDisown lease s

end Sys2Proof.Machine
end

