-- ==== Sys2Proof/Machine/Agenda.lean ====
section
/-! DEFINITION. What one event of the agenda does (rules R68, R251; log entry 4). -/

namespace Sys2Proof.Machine

/-- A request that is no instruction. A GCR code without a row is looked up like every other code (rules R92, R94 (f); log entry
24); an unassigned selector (rule R96, V5) and arguments that are not the operation's (log entry 9) have no meaning. -/
def rejectRequest (why : Reject) (s : State) : Host.Outcome State Fault Refusal :=
  match why with
  | .noGcrRow code => .next (lookUpCode code s)
  | .selectorUnassigned _ => .refused (.undecodable why)
  | .operands _ => .refused (.undecodable why)

/-- Issue an operation, or present a word, that runs to completion. -/
def runRequest (r : Request) (s : State) : Host.Outcome State Fault Refusal :=
  match Sys2Proof.decode r with
  | .error why => rejectRequest why s
  | .ok i => exec i s

/-- Issue an operation and leave it in flight where it is a `begin` or an `end`; every other operation is one step (rules R66
to R68). -/
def startRequest (r : Request) (s : State) : Host.Outcome State Fault Refusal :=
  match Sys2Proof.decode r with
  | .error why => rejectRequest why s
  | .ok (.schedBegin k) => startBegin k s
  | .ok (.schedEnd k) => startEnd k s
  | .ok i => exec i s

/-- One event. -/
def runEvent (e : Event) (s : State) : Host.Outcome State Fault Refusal :=
  match e with
  | .run r => runRequest r s
  | .start r => startRequest r s
  | .resume k => .next (resumeInst k s)

/-- The first event of the agenda happens; where no host issues anything, nothing moves (rules R251, R253, log entry 19). -/
def runAgenda (s : State) : Host.Outcome State Fault Refusal :=
  match s.agenda with
  | [] => .next s
  | e :: rest => runEvent e { s with agenda := rest }

/-- A host issues a request before everything else. -/
def State.issue (s : State) (r : Request) : State := { s with agenda := .run r :: s.agenda }

end Sys2Proof.Machine
end

