-- ==== Sys2Proof/Machine/Step.lean ====
section
/-! DEFINITION. One step of the machine, and the placing of a request where the next step takes it. -/

namespace Sys2Proof.Machine

/-- One step: the first event of the agenda, under well-formed configurations (rules R9, R251). -/
def step (s : State) : Host.Outcome State Fault Refusal :=
  if s.configured then runAgenda s else .refused .illFormedConfig

/-- The word of the opcode table, its arguments zero, issued as the next request; a word that is none leaves the state. -/
def State.withFetchWord (s : State) (nbits w : Nat) : State :=
  match tableRequest nbits w with
  | some r => s.issue r
  | none => s

end Sys2Proof.Machine
end

