-- ==== Sys2Proof/Safety.lean ====
section
/-! DEFINITION. What claims call a sound state and a well-behaved host: the scheduler's invariant (rules R30 to R34), the
pool-lease invariant and the host's duty it rests on (rules R27, R185, R252, R270), and how claims name owners of pool
entries and read an event. -/

namespace Sys2Proof.Machine

/-! ### Owners of pool entries -/

/-- A lease of the system: an instance's transmit or receive lease, or a standalone one (rule R20). -/
inductive Owner where
  | tx (inst : InstId)
  | rx (inst : InstId)
  | standalone (lease : LeaseId)
  deriving DecidableEq, Repr

/-- What a lease of the system holds. -/
def State.heldBy (s : State) : Owner → Option Nat
  | .tx k => (s.inst k).tx.held
  | .rx k => (s.inst k).rx.held
  | .standalone l => (s.lease l).lease.held

/-- The pool-lease invariant, rule R27 (a) and (b): a live lease's entry is Taken, and no two live leases hold the same
index. -/
def PoolLeaseInv (s : State) : Prop :=
  (∀ o i, s.heldBy o = some i → poolTaken s.pool i = true) ∧
  (∀ o o' i, s.heldBy o = some i → s.heldBy o' = some i → o = o')

/-! ### The scheduler's invariant -/

/-- What a lease pair and `initialized` are between operations and at each step of a `begin` or an `end` (rules R33, R190,
R205): an idle instance is initialized exactly when its transmit lease is live, and then its receive lease is live exactly
with BIDIR. -/
def Instance.leasesAgree (bidir : Bool) (i : Instance) : Prop :=
  match i.busy with
  | none => i.tx.held.isSome = i.initialized ∧ i.rx.held.isSome = (i.initialized && bidir)
  | some .beginTx => i.initialized = false ∧ i.tx.held = none ∧ i.rx.held = none
  | some .beginRx => i.initialized = false ∧ i.tx.held.isSome = true ∧ i.rx.held = none ∧ bidir = true
  | some .beginConfigure => i.initialized = false ∧ i.tx.held.isSome = true ∧ i.rx.held.isSome = bidir
  | some (.undoRx _) => i.initialized = false ∧ i.tx.held.isSome = true
  | some (.undoTx _) => i.initialized = false ∧ i.rx.held = none
  | some .endTransmit => i.initialized = true ∧ i.tx.held.isSome = true
  | some .endRx => i.initialized = true ∧ i.tx.held.isSome = true
  | some .endTx => i.initialized = true ∧ i.rx.held = none
  | some .endReset => i.initialized = false ∧ i.tx.held = none ∧ i.rx.held = none

/-- A TelemetryFrame as a successful decode creates it (rule R36): its CRC is the payload's, and its kind and value are what
classification gives. -/
def TelemetryFrame.decoded (f : TelemetryFrame) : Prop :=
  Sys2Proof.Machine.crc4 f.payload12 = f.crc4 ∧ f = classify f.payload12 f.crc4

/-- One instance is sound: its copies of the configuration are the configuration's, its counter is below its divisor (rule
R30), its cache holds only decoded frames and is fresh only with one (rules R36, R204), its leases agree. -/
def Instance.sound (c : Config) (i : Instance) : Prop :=
  i.periodUs = c.periodUs ∧ i.divisor = c.telemetryDivisor ∧ i.polePairs = c.polePairs ∧
  i.counter < i.divisor ∧
  (∀ f, i.cache.frame = some f → f.decoded) ∧ (i.cache.fresh = true → i.cache.frame ≠ none) ∧
  i.leasesAgree c.bidir

/-- The scheduler's invariant: well-formed configurations, and every instance sound under its own. -/
def SchedulerInv (s : State) : Prop :=
  s.configured = true ∧ ∀ k, (s.inst k).sound (s.instCfg k)

/-! ### Events and the host's duty -/

/-- The instruction an event issues, if it is one. -/
def Event.instr : Event → Option Instr
  | .run r => (Sys2Proof.decode r).toOption
  | .start r => (Sys2Proof.decode r).toOption
  | .resume _ => none

/-- What the next step is about to do. -/
def State.nextInstr (s : State) : Option Instr := s.agenda.head?.bind Event.instr

/-- The host's duty of rule R252, as rule R185 uses it: the next step is no raw release of an index that a live lease
holds. -/
def KeepsOwnership (s : State) : Prop :=
  ∀ i, s.nextInstr = some (.allocRelease i) → ∀ o, s.heldBy o ≠ some i

/-- A safe state: canonical, sound, and no entry owned twice. -/
def Safe (s : State) : Prop := Memory.wf s = true ∧ SchedulerInv s ∧ PoolLeaseInv s

end Sys2Proof.Machine
end

