-- ==== Sys2Proof/Certificates/Slice0/Obligations.lean ====
section
/-! DEFINITION. The statements for the provers, and the few words they are written in (namespace Claims). A statement whose
docstring says `spec's own choice D<n>` rests on a decision of spec/92_eei_decisions.md, and `model's choice` names the entry
of notes/assumptions it rests on. Every answer of an environment is either one the state foresees or a free value of Config
(log entry 2); no statement rests on what a free value is. -/

open Sys2Proof Sys2Proof.Machine

namespace Claims

/-! ### Words -/

/-- The XOR of the three nibbles of a 12-bit word. -/
def nibbleXor (p : U12) : U4 := p.extractLsb' 8 4 ^^^ p.extractLsb' 4 4 ^^^ p.extractLsb' 0 4

/-- The 12-bit word `vvvvvvvvvvvt`. -/
def valueAndFlag (v : U11) (t : Bit) : U12 := (v.setWidth 12 <<< 1) ||| t.setWidth 12

/-- The payload `eee1mmmmmmmm`. -/
def erpmPayload (e : BitVec 3) (m : U8) : U12 := (e.setWidth 12 <<< 9) ||| (1#12 <<< 8) ||| m.setWidth 12

/-- The payload of a type code and a raw byte. -/
def edtPayload (type : U4) (raw : U8) : U12 := (type.setWidth 12 <<< 8) ||| raw.setWidth 12

/-- The bits the runs stand for, each run's count of rule R133 at alternating polarity, uncut. -/
def expandRuns (rbt : Nat) : Bool → List Nat → List Bool
  | _, [] => []
  | pol, r :: rest => List.replicate (max 1 ((2 * r + rbt) / (2 * rbt))) pol ++ expandRuns rbt (!pol) rest

/-- GCR group n of the word an NRZI word stands for, g0 lowest. -/
def group (n21 : U21) (n : Nat) : U5 := (n21 ^^^ (n21 >>> 1)).extractLsb' (5 * n) 5

/-! ### Results and frames -/

/-- Nothing happens but the return of a result: every other part of the state is as before. -/
def returned (s : State) (r : Result) : State := { s with results := s.results ++ [r] }

/-- A decode that fails: `None` is returned, DecodeInvalid is noted, every other part of the state is as before. -/
def decodeFailed (s : State) : State :=
  { s with results := s.results ++ [.telemetry none], diagLog := s.diagLog ++ [.decodeInvalid] }

/-- The pool changes to `p` and a result is returned: every other part of the state is as before. -/
def pooled (s : State) (p : List Bool) (r : Result) : State := { s with pool := p, results := s.results ++ [r] }

/-- Everything a lease operation may change: the pool is `p`, lease `l` is `v`, `r` is returned; every other lease, every
instance and everything else is as before. -/
def LeaseStep (s t : State) (l : LeaseId) (v : LeaseSlot) (p : List Bool) (r : Result) : Prop :=
  t.pool = p ∧ t.lease l = v ∧ (∀ l', l' ≠ l → t.lease l' = s.lease l') ∧ (∀ k, t.inst k = s.inst k) ∧
  t.results = s.results ++ [r] ∧ t.cfg = s.cfg ∧ t.instCfgs = s.instCfgs ∧ t.diagLog = s.diagLog ∧ t.agenda = s.agenda

/-- Everything an operation on instance `k`, or one step of it, may change: the pool is `p`, the instance is `i`, the results
`rs` join the results; every other instance, every lease and everything else is as before. -/
def PartStep (s t : State) (k : InstId) (i : Instance) (p : List Bool) (rs : List Result) : Prop :=
  t.pool = p ∧ t.inst k = i ∧ (∀ k', k' ≠ k → t.inst k' = s.inst k') ∧ (∀ l, t.lease l = s.lease l) ∧
  t.results = s.results ++ rs ∧ t.cfg = s.cfg ∧ t.instCfgs = s.instCfgs ∧ t.diagLog = s.diagLog ∧ t.agenda = s.agenda

/-- An operation on instance `k` that returns `r`. -/
def InstStep (s t : State) (k : InstId) (i : Instance) (p : List Bool) (r : Result) : Prop := PartStep s t k i p [r]

/-! ### The pool -/

/-- `i` is the lowest Free index of `first .. last`. -/
def LowestFree (p : List Bool) (first last i : Nat) : Prop :=
  first ≤ i ∧ i ≤ last ∧ p[i]? = some false ∧ ∀ m, first ≤ m → m < i → p[m]? = some true

/-- Every index of `first .. last` that lies in the pool is Taken. -/
def AllTaken (p : List Bool) (first last : Nat) : Prop :=
  ∀ m, first ≤ m → m ≤ last → m < p.length → p[m]? = some true

/-- The pool once a lease has given back what it holds. -/
def givenBack (L : Lease) (p : List Bool) : List Bool :=
  match L.held with
  | some j => p.set j false
  | none => p

/-- How many entries are Free. -/
def freeCount (p : List Bool) : Nat := ((List.range p.length).filter fun i => p[i]? == some false).length

/-! ### The environment of an instance -/

/-- What the clock reads next. -/
def clockReading (k : InstId) (i : Instance) : Nat :=
  i.env.time + i.env.clock.headD (Config.freeElapsed k i.env.draws)

/-- The instance once it has read the clock. -/
def afterClock (k : InstId) (i : Instance) : Instance :=
  { i with
    env := { i.env with clock := i.env.clock.tail, time := clockReading k i, draws := i.env.draws + 1 }
    envLog := i.envLog ++ [.now (clockReading k i)] }

/-- What the engine answers next to a transmission. -/
def transmitAnswer (k : InstId) (i : Instance) : Bool :=
  i.env.transmit.headD (Config.freeTransmit k i.env.draws)

/-- The instance once it has handed the pulses of frame `w` to the engine and has its answer: a frame sent joins the log of
frames sent, a failure is noted as TransmitFailed. -/
def afterTransmit (c : Config) (k : InstId) (w : U16) (i : Instance) : Instance :=
  { i with
    env := { i.env with transmit := i.env.transmit.tail, draws := i.env.draws + 1 }
    envLog := i.envLog ++ [.transmit (frameToPulses c w) (transmitAnswer k i)]
    txLog := if transmitAnswer k i then i.txLog ++ [w] else i.txLog
    diagLog := if transmitAnswer k i then i.diagLog else i.diagLog ++ [.transmitFailed] }

/-- What the engine has captured. -/
def captureAnswer (k : InstId) (i : Instance) : Option RunSample :=
  i.env.capture.headD (Config.freeCapture k i.env.draws)

/-- The instance once the receive window was opened, polled once and closed. -/
def afterWindow (k : InstId) (i : Instance) : Instance :=
  { i with
    env := { i.env with capture := i.env.capture.tail, draws := i.env.draws + 1 }
    envLog := i.envLog ++ [.beginReceiveWindow, .pollCapture (captureAnswer k i), .endReceiveWindow] }

/-- What the engine answers next to a configuration. -/
def configureAnswer (k : InstId) (i : Instance) : Bool :=
  i.env.configure.headD (Config.freeConfigure k i.env.draws)

/-- The instance, its leases `tx` and `rx`, once the engine has answered their configuration. -/
def afterConfigure (k : InstId) (tx rx : Lease) (i : Instance) : Instance :=
  { i with
    env := { i.env with configure := i.env.configure.tail, draws := i.env.draws + 1 }
    envLog := i.envLog ++ [.configure tx.held rx.held (configureAnswer k i)] }

/-! ### The scheduler -/

/-- `x` is a number of at least `q`, or +Inf. -/
def AtLeast (x : ThrottleInput) (q : Rat) : Prop := x = .posInf ∨ ∃ r, x = .finite r ∧ q ≤ r

/-- `x` is a number of at most `q`, or −Inf. -/
def AtMost (x : ThrottleInput) (q : Rat) : Prop := x = .negInf ∨ ∃ r, x = .finite r ∧ r ≤ q

/-- An armed link and a throttle `x` give a link and the throttle used (rules R193, R206). -/
def Hysteresis (link : Link) (x : ThrottleInput) (link' : Link) (used : ThrottleInput) : Prop :=
  (link = .armedZero ∧ AtLeast x (1 / 25) ∧ link' = .armedActive ∧ used = x) ∨
  (link = .armedZero ∧ ¬ AtLeast x (1 / 25) ∧ link' = .armedZero ∧ used = .finite 0) ∨
  (link = .armedActive ∧ AtMost x (1 / 50) ∧ link' = .armedZero ∧ used = .finite 0) ∨
  (link = .armedActive ∧ ¬ AtMost x (1 / 50) ∧ link' = .armedActive ∧ used = x)

/-- The instance's fields at their reset values, `initialized` as given, and both leases as given (rule R32). -/
def restarted (initialized : Bool) (tx rx : Lease) (i : Instance) : Instance :=
  { i with
    link := .disarmed, nextDue := 0, counter := 0, initialized := initialized, tx := tx, rx := rx,
    cache := { fresh := false, frame := none, rpm := 0, temperature := 0, voltage := 0, current := 0 } }

/-- A frame whose telemetry bit is set exactly where the cadence counter reaches the divisor (rule R196). -/
def cadenceFrame (i : Instance) (v : U11) : U16 := buildFrame v (if i.divisor ≤ i.counter + 1 then 1#1 else 0#1)

/-- The instance once the clock was read, the gate passed and the counter stepped (rules R194, R196). -/
def afterGate (k : InstId) (i : Instance) : Instance :=
  { afterClock k i with
    nextDue := clockReading k i + i.periodUs
    counter := if i.divisor ≤ i.counter + 1 then 0 else i.counter + 1 }

/-- What a window leaves of instance `i`, which has just sent a telemetry request (rules R198, R199). -/
def WindowDone (c : Config) (k : InstId) (i j : Instance) : Prop :=
  (captureAnswer k i = none → j = afterWindow k i) ∧
  (∀ r, captureAnswer k i = some r →
    (decodeReply c r.highRuns r.lowRuns c.replyBitTicks = none →
      j = { afterWindow k i with diagLog := i.diagLog ++ [.decodeInvalid] }) ∧
    (∀ f, decodeReply c r.highRuns r.lowRuns c.replyBitTicks = some f →
      j = { afterWindow k i with cache := cacheUpdate c i.polePairs f i.cache }))

/-- From instance `i` past the armed check, a command of value `v` returns `b` and leaves instance `j`: dropped before the due
time; else transmitted, and where a request was sent and a receive lease is live the window follows (rules R194, R196,
R198). -/
def Gated (c : Config) (k : InstId) (v : U11) (i : Instance) (b : Bool) (j : Instance) : Prop :=
  (clockReading k i < i.nextDue →
    b = false ∧ j = { afterClock k i with diagLog := i.diagLog ++ [.rateLimited] }) ∧
  (i.nextDue ≤ clockReading k i →
    b = transmitAnswer k (afterGate k i) ∧
    (b = true ∧ i.divisor ≤ i.counter + 1 ∧ i.rx.held ≠ none →
      WindowDone c k (afterTransmit c k (cadenceFrame i v) (afterGate k i)) j) ∧
    (¬ (b = true ∧ i.divisor ≤ i.counter + 1 ∧ i.rx.held ≠ none) →
      j = afterTransmit c k (cadenceFrame i v) (afterGate k i)))

/-- The event names instance `k`. -/
def names (e : Event) (k : InstId) : Prop :=
  e = .resume k ∨
  ∃ i, e.instr = some i ∧
    (i = .schedBegin k ∨ (∃ on, i = .schedArm k on) ∨ (∃ x, i = .schedWriteNormalized k x) ∨
      (∃ code, i = .schedSendSpecial k code) ∨ i = .schedReadTelemetry k ∨ i = .schedEnd k)

/-- The instruction is an operation on lease `l`. -/
def namesLease (i : Instr) (l : LeaseId) : Prop :=
  i = .leaseAcquireAny l ∨ (∃ first last, i = .leaseAcquireInRange l first last) ∨ i = .leaseRelease l ∨
  i = .leaseDestroy l ∨ i = .leaseDisown l

/-- The cadence counter and telemetry bit of `n` permitted transmissions from counter 0: the counter they leave, and the bit
of each, the last first. -/
def cadenceRun (divisor : Nat) : Nat → Nat × List Bit
  | 0 => (0, [])
  | n + 1 =>
    let r := cadenceRun divisor n
    let c := cadence divisor r.1
    (c.2, c.1 :: r.2)

end Claims

/-! ## Encoding -/

/-- O1. Rules R80 to R97: decoding the encoding of a well-formed instruction gives it back, every operand at every value. For the
24 operation rows the request's shape, a selector with a list of arguments as values, is the model's choice, log entry 9, over
the spec's own choice D37; that the GCR rows are the default table's codes is log entry 24. -/
def Obligations.DecodeOfEncodeIsTheInstruction : Prop :=
  ∀ i : Instr, i.wf = true → decode (encode i) = .ok i

/-- O2. Every word and request that decodes decodes to a well-formed instruction, and to one only: encoding it gives the
request back. For the 24 operation rows this speaks of the request's shape, a selector with a list of arguments as values and
any other list rejected, which is the model's choice, log entry 9, over the spec's own choice D37; that the GCR rows are the
default table's codes is log entry 24. -/
def Obligations.EncodeOfDecodedIsTheRequest : Prop :=
  ∀ (r : Request) (i : Instr), decode r = .ok i → i.wf = true ∧ encode i = r

/-- O3. Words of the four wire formats written out from the spec's patterns decode to what they stand for, the GCR code by the
default table (general knowledge G1, spec's own choice D13, log entries 11 and 24). The last conjunct's selector is the spec's
own choice D37, and its list of arguments is no pattern of the spec but the model's choice, log entry 9. -/
def Obligations.WordsOfTheSpecDecode : Prop :=
  decode (.frame16 0b0000011000000110) = .ok (.dshotFrameThrottle 48 0 6) ∧
  decode (.frame16 0b0000010111111010) = .ok (.dshotFrameSpecial 47 1 0xA) ∧
  decode (.reply16 0b0101011001010110) = .ok (.replyErpm 2 0x65 6) ∧
  decode (.reply16 0b0010001001010101) = .ok (.replyEdtTemperature 0x25 5) ∧
  decode (.reply16 0b1000101010101000) = .ok (.replyEdtOther 4 0xAA 8) ∧
  decode (.nrzi21 0b011001001001100100100) = .ok (.nrziWord 0 0b11001001001100100100) ∧
  decode (.gcr5 0b10101) = .ok .gcrNibble5 ∧
  decode (.op 0b00010011 [.num 3, .throttle .nan]) = .ok (.schedWriteNormalized 3 .nan)

/-- O4. Selectors 24 to 31 and those outside `000sssss` are rejected by name, and a step refuses them (rule R96; spec's own
choice D37). -/
def Obligations.UnassignedSelectorsAreRefused : Prop :=
  ∀ (selector : U8) (operands : List Operand), 24 ≤ selector.toNat →
    decode (.op selector operands) = .error (.selectorUnassigned selector) ∧
    ∀ (s : State) (rest : List Event), s.configured = true →
      s.agenda = .run (.op selector operands) :: rest ∨ s.agenda = .start (.op selector operands) :: rest →
      step s = .refused (.undecodable (.selectorUnassigned selector))

/-! ## The step -/

/-- O5. A step runs the instruction its first request decodes to, on the state past that request. Issued to be left in flight, a
`begin` or an `end` is left so, and every other instruction is run. A GCR code without a row is looked up in the configured
table, any other request that is no instruction is refused. A resumed instance takes its next step; where nothing is issued
nothing moves; a word of the opcode table placed for the next step is run by it. (Agenda, grain, words and codes are the
model's choice, log entries 4, 8, 19, 21 and 24.) -/
def Obligations.StepRunsTheDecodedInstruction : Prop :=
  ∀ s : State, s.configured = true →
    (∀ r rest i, s.agenda = .run r :: rest → decode r = .ok i → step s = exec i { s with agenda := rest }) ∧
    (∀ r rest k, s.agenda = .start r :: rest → decode r = .ok (.schedBegin k) →
      step s = startBegin k { s with agenda := rest }) ∧
    (∀ r rest k, s.agenda = .start r :: rest → decode r = .ok (.schedEnd k) →
      step s = startEnd k { s with agenda := rest }) ∧
    (∀ r rest i, s.agenda = .start r :: rest → decode r = .ok i → (∀ k, i ≠ .schedBegin k ∧ i ≠ .schedEnd k) →
      step s = exec i { s with agenda := rest }) ∧
    (∀ r rest why, s.agenda = .run r :: rest ∨ s.agenda = .start r :: rest → decode r = .error why →
      (∀ code, why = .noGcrRow code →
        step s = .next (Claims.returned { s with agenda := rest } (.nibble (s.cfg.gcrTable[code.toNat]?.getD none)))) ∧
      ((∀ code, why ≠ .noGcrRow code) → step s = .refused (.undecodable why))) ∧
    (∀ k rest, s.agenda = .resume k :: rest → step s = .next (resumeInst k { s with agenda := rest })) ∧
    (s.agenda = [] → step s = .next s) ∧
    (∀ nbits w i, decodeTableWord nbits w = some i → step (s.withFetchWord nbits w) = exec i s)

/-- O6. An ill-formed configuration constructs nothing, and no step is taken under one; well-formed ones construct the reset
state (rule R9; spec's own choices D3, D5, D7, D13, D16, D29, D34; that an instance may have a configuration of its own is the
model's reading, log entry 23). -/
def Obligations.IllFormedConfigurationIsRefused : Prop :=
  ∀ (c : Config) (own : List (Nat × Config)),
    (configWf c = true ↔
      1 ≤ c.poolSize ∧ c.idleOffset ≤ 1999 ∧ 1 ≤ c.telemetryDivisor ∧ 1 ≤ c.polePairs ∧
      8 ≤ c.totalBitTicks ∧ c.totalBitTicks ≤ 65535 ∧ 1 ≤ c.replyBitTicks ∧ c.gcrTable.length = 32 ∧
      (c.gcrTable.filter (·.isSome)).length = 16) ∧
    (configWf c = true → (∀ e ∈ own, configWf e.2 = true ∧ e.2.poolSize = c.poolSize) →
      State.construct c own = .next (State.initialWith c own)) ∧
    (configWf c = false ∨ (∃ e ∈ own, configWf e.2 = false) → State.construct c own = .refused .illFormedConfig) ∧
    (∀ s : State, configWf s.cfg = false ∨ (∃ e ∈ s.instCfgs, configWf e.2 = false) →
      step s = .refused .illFormedConfig)

/-! ## Wire-format rows -/

/-- O7. A command frame presented to the core: where its CRC field is the XOR of the three nibbles of bits 15:4 the value and
the flag are read, else nothing is (rules R81 to R83, R114). That this is what the row does is the model's choice, log entry
7. -/
def Obligations.CommandFrameIsReadIfItsCrcHolds : Prop :=
  ∀ (s : State) (t : Bit) (crc : U4),
    (∀ value11 : U11, exec (.dshotFrameThrottle value11 t crc) s =
      .next (Claims.returned s (.command
        (if Claims.nibbleXor (Claims.valueAndFlag value11 t) = crc then some (.throttle value11 t) else none)))) ∧
    (∀ code : BitVec 6, exec (.dshotFrameSpecial code t crc) s =
      .next (Claims.returned s (.command
        (if Claims.nibbleXor (Claims.valueAndFlag (code.setWidth 11) t) = crc then some (.special (code.setWidth 11) t)
         else none))))

/-- O8. An eRPM reply value: with a true CRC the frame carries 60 000 000 divided by the mantissa 256 + m shifted by the
exponent, with a false one nothing is read and DecodeInvalid is noted (rules R90, R154, R155, R160; model's choice, log entry
7; integer division is the spec's own choice D14). -/
def Obligations.ErpmReplyIsRead : Prop :=
  ∀ (s : State) (e : BitVec 3) (m : U8) (crc : U4),
    (Claims.nibbleXor (Claims.erpmPayload e m) = crc →
      exec (.replyErpm e m crc) s = .next (Claims.returned s (.telemetry (some
        { kind := .erpm, payload12 := Claims.erpmPayload e m, crc4 := crc,
          value := 60000000 / ((256 + m.toNat) * 2 ^ e.toNat) })))) ∧
    (Claims.nibbleXor (Claims.erpmPayload e m) ≠ crc → exec (.replyErpm e m crc) s = .next (Claims.decodeFailed s))

/-- O9. The extended-telemetry reply values: the kind by the type code, the value the raw byte, unscaled (rules R91, R154,
R155; model's choice, log entry 7). -/
def Obligations.EdtRepliesAreRead : Prop :=
  ∀ (s : State) (raw : U8) (crc : U4) (i : Instr) (type : U4) (kind : TelemetryKind),
    ((i = .replyEdtTemperature raw crc ∧ type = 0x2#4 ∧ kind = .edtTemperature) ∨
     (i = .replyEdtVoltage raw crc ∧ type = 0x4#4 ∧ kind = .edtVoltage) ∨
     (i = .replyEdtCurrent raw crc ∧ type = 0x6#4 ∧ kind = .edtCurrent) ∨
     (∃ ty : BitVec 3, i = .replyEdtOther ty raw crc ∧ i.wf = true ∧ type = ty.setWidth 4 <<< 1 ∧ kind = .edtOther)) →
    (Claims.nibbleXor (Claims.edtPayload type raw) = crc →
      exec i s = .next (Claims.returned s (.telemetry (some
        { kind := kind, payload12 := Claims.edtPayload type raw, crc4 := crc, value := raw.toNat })))) ∧
    (Claims.nibbleXor (Claims.edtPayload type raw) ≠ crc → exec i s = .next (Claims.decodeFailed s))

/-- O10. The NRZI word's GCR word: a bit is 1 exactly where the level changed between two consecutive bit times, and the
complement of all 21 levels gives the same word (rules R88, R151; that the row does this is the model's choice, log entry
7). -/
def Obligations.NrziWordIsDifferentiallyDecoded : Prop :=
  ∀ (s : State) (lead : Bit) (levels : U20), ∃ g : U20,
    exec (.nrziWord lead levels) s = .next (Claims.returned s (.u20 g)) ∧
    exec (.nrziWord (~~~lead) (~~~levels)) s = .next (Claims.returned s (.u20 g)) ∧
    (∀ i, i < 19 → g.getLsbD i = (levels.getLsbD i ^^ levels.getLsbD (i + 1))) ∧
    g.getLsbD 19 = (levels.getLsbD 19 ^^ lead.getLsbD 0)

/-- O11. Each GCR row looks its code up in the configured table, and with the default table gives its nibble (rule R92; the
entries are general knowledge G1, log entry 11; that the row does this is the model's choice, log entry 7). -/
def Obligations.GcrRowsLookUpTheirNibble : Prop :=
  ∀ (s : State) (i : Instr) (code : Nat) (nibble : U4),
    (i, code, nibble) ∈ [(Instr.gcrNibble0, 0x19, 0x0#4), (.gcrNibble1, 0x1B, 0x1#4), (.gcrNibble2, 0x12, 0x2#4),
      (.gcrNibble3, 0x13, 0x3#4), (.gcrNibble4, 0x1D, 0x4#4), (.gcrNibble5, 0x15, 0x5#4), (.gcrNibble6, 0x16, 0x6#4),
      (.gcrNibble7, 0x17, 0x7#4), (.gcrNibble8, 0x1A, 0x8#4), (.gcrNibble9, 0x09, 0x9#4), (.gcrNibbleA, 0x0A, 0xA#4),
      (.gcrNibbleB, 0x0B, 0xB#4), (.gcrNibbleC, 0x1E, 0xC#4), (.gcrNibbleD, 0x0D, 0xD#4), (.gcrNibbleE, 0x0E, 0xE#4),
      (.gcrNibbleF, 0x0F, 0xF#4)] →
    exec i s = .next (Claims.returned s (.nibble (s.cfg.gcrTable[code]?.getD none))) ∧
    (s.cfg.gcrTable = defaultGcrTable → exec i s = .next (Claims.returned s (.nibble (some nibble))))

/-- O58. Any five-bit code presented to the core, with a row or without, is looked up in the configured table: its nibble is
returned, `None` where the table marks it invalid, and nothing else changes; in the default table the sixteen codes without a
row are the invalid ones (rules R92, R94, R153; the entries are general knowledge G1, log entry 11; that a code can be
presented on its own is the model's choice, log entries 7 and 24). -/
def Obligations.EveryGcrCodeIsLookedUp : Prop :=
  (∀ (s : State) (code : U5) (rest : List Event), s.configured = true →
    s.agenda = .run (.gcr5 code) :: rest ∨ s.agenda = .start (.gcr5 code) :: rest →
    step s = .next (Claims.returned { s with agenda := rest } (.nibble (s.cfg.gcrTable[code.toNat]?.getD none)))) ∧
  (∀ code : U5, decode (.gcr5 code) = .error (.noGcrRow code) ↔ defaultGcrTable[code.toNat]?.getD none = none)

/-! ## PacketCodec -/

/-- O12. `encode_throttle` completes for every input; its result lies in [MIN_CODE, 2047], is MIN_CODE for NaN, −Inf and x ≤ 0,
2047 for +Inf and x ≥ 1, and between them the nearest integer to the linear map, ties up (rule R110; spec's own choices D1,
D2). -/
def Obligations.EncodeThrottleMapsLinearly : Prop :=
  ∀ (s : State) (x : ThrottleInput), configWf s.cfg = true → ∃ v : U11,
    exec (.encodeThrottle x) s = .next (Claims.returned s (.u11 v)) ∧
    48 + s.cfg.idleOffset ≤ v.toNat ∧ v.toNat ≤ 2047 ∧
    (x = .nan ∨ x = .negInf → v.toNat = 48 + s.cfg.idleOffset) ∧
    (x = .posInf → v.toNat = 2047) ∧
    (∀ q, x = .finite q →
      (q ≤ 0 → v.toNat = 48 + s.cfg.idleOffset) ∧ (1 ≤ q → v.toNat = 2047) ∧
      (0 ≤ q → q ≤ 1 →
        (v.toNat : Rat) - 48 - s.cfg.idleOffset ≤ q * (1999 - s.cfg.idleOffset) + 1 / 2 ∧
        q * (1999 - s.cfg.idleOffset) + 1 / 2 < (v.toNat : Rat) - 48 - s.cfg.idleOffset + 1))

/-- O13. `encode_throttle` is monotonic nondecreasing on the numbers (rule R110; spec's own choices D1, D2). -/
def Obligations.EncodeThrottleIsMonotonic : Prop :=
  ∀ (s : State) (q r : Rat), configWf s.cfg = true → q ≤ r → ∃ v w : U11,
    exec (.encodeThrottle (.finite q)) s = .next (Claims.returned s (.u11 v)) ∧
    exec (.encodeThrottle (.finite r)) s = .next (Claims.returned s (.u11 w)) ∧ v.toNat ≤ w.toNat

/-- O14. `encode_special` clamps to [0, 47] (rule R111; spec's own choice D44). -/
def Obligations.EncodeSpecialClamps : Prop :=
  ∀ (s : State) (code : U8), ∃ v : U11,
    exec (.encodeSpecial code) s = .next (Claims.returned s (.u11 v)) ∧ v.toNat = min code.toNat 47

/-- O15. `crc4` is the XOR of the three nibbles; it is linear over XOR, flipping one bit of the word flips one bit of the result,
and so every single-bit error in a 16-bit word is detected (rule R112). -/
def Obligations.CrcIsTheXorOfTheNibbles : Prop :=
  ∀ (s : State) (p : U12),
    exec (.crc4 p) s = .next (Claims.returned s (.u4 (Claims.nibbleXor p))) ∧
    (∀ q : U12, crc4 (p ^^^ q) = crc4 p ^^^ crc4 q) ∧
    (∀ i, i < 12 → crc4 (p ^^^ (1#12 <<< i)) = crc4 p ^^^ (1#4 <<< (i % 4))) ∧
    (∀ (w : U16) (i : Nat), i < 16 → decodeAndValidate w ≠ none → decodeAndValidate (w ^^^ (1#16 <<< i)) = none)

/-- O16. `build_frame` puts the value in bits 15:5, the flag in bit 4 and the XOR of the three nibbles of bits 15:4 in bits 3:0
(rule R113). -/
def Obligations.BuildFrameLaysOutTheFields : Prop :=
  ∀ (s : State) (value11 : U11) (t : Bit), ∃ w : U16,
    exec (.buildFrame value11 t) s = .next (Claims.returned s (.u16 w)) ∧
    w.extractLsb' 5 11 = value11 ∧ w.extractLsb' 4 1 = t ∧ w.extractLsb' 0 4 = Claims.nibbleXor (w.extractLsb' 4 12)

/-- O17. `decode_and_validate` returns bits 15:4 exactly where bits 3:0 are the XOR of their nibbles, and of the sixteen words
of a payload it accepts exactly one (rule R114). -/
def Obligations.DecodeAndValidateChecksTheCrc : Prop :=
  ∀ (s : State) (w : U16),
    exec (.decodeAndValidate w) s = .next (Claims.returned s (.payload
      (if w.extractLsb' 0 4 = Claims.nibbleXor (w.extractLsb' 4 12) then some (w.extractLsb' 4 12, true) else none))) ∧
    (∀ p : U12, ∃! v : U16, v.extractLsb' 4 12 = p ∧ decodeAndValidate v ≠ none)

/-- O18. Round trip: for every value and flag, the frame `build_frame` returns is accepted by `decode_and_validate`, which
recovers exactly `(value11 << 1) | t` (rule R115). -/
def Obligations.BuiltFrameDecodesToItsPayload : Prop :=
  ∀ (s : State) (value11 : U11) (t : Bit), ∃ w : U16,
    exec (.buildFrame value11 t) s = .next (Claims.returned s (.u16 w)) ∧
    exec (.decodeAndValidate w) (Claims.returned s (.u16 w)) =
      .next (Claims.returned (Claims.returned s (.u16 w)) (.payload (some (Claims.valueAndFlag value11 t, true))))

/-! ## WaveformTranscoder -/

/-- O19. `frame_to_pulses` gives sixteen pairs; pair k carries frame bit 15 − k, HIGH for three quarters of the bit period for a
1 and three eighths for a 0, truncated, and every pair sums to the period (rules R60, R130, R131; truncation is the spec's
own choice D6). -/
def Obligations.FrameToPulsesIsMsbFirst : Prop :=
  ∀ (s : State) (w : U16), configWf s.cfg = true → ∃ l : List PulsePair,
    exec (.frameToPulses w) s = .next (Claims.returned s (.pulses l)) ∧ l.length = 16 ∧
    ∀ k, k < 16 → ∃ p, l[k]? = some p ∧
      p.highTicks.toNat = (if w.getLsbD (15 - k) then 3 * s.cfg.totalBitTicks / 4 else 3 * s.cfg.totalBitTicks / 8) ∧
      p.highTicks.toNat + p.lowTicks.toNat = s.cfg.totalBitTicks

/-- O20. The run sequence alternates the two lists from the HIGH one and ends at the first position whose list is exhausted
(rule R132; spec's own choice D9). -/
def Obligations.RunSequenceAlternates : Prop :=
  ∀ high low : List Nat,
    (interleave high low).length = min (2 * high.length) (2 * low.length + 1) ∧
    ∀ i, (2 * i < (interleave high low).length → (interleave high low)[2 * i]? = high[i]?) ∧
      (2 * i + 1 < (interleave high low).length → (interleave high low)[2 * i + 1]? = low[i]?)

/-- O21. `runs_to_bits`: the lead bit, if the mode has one, and the runs' bits, the first 21 of them, first bit most
significant; fewer than 21 give `None`, and so does a bit period of 0 (rules R133, R134; spec's own choices D8 to D12). -/
def Obligations.RunsToBitsTakesTwentyOneBits : Prop :=
  ∀ (s : State) (high low : List Nat) (rbt : Nat), ∃ o : Option U21,
    exec (.runsToBits high low rbt) s = .next (Claims.returned s (.nrzi o)) ∧
    (rbt = 0 → o = none) ∧
    (rbt ≠ 0 → ∀ bits : List Bool,
      bits = (match s.cfg.leadBitMode with | .synthetic => [false] | .captured => []) ++
        Claims.expandRuns rbt true (interleave high low) →
      (bits.length < 21 → o = none) ∧
      (21 ≤ bits.length → ∃ n21, o = some n21 ∧ ∀ i, i < 21 → n21.getLsbD (20 - i) = bits.getD i false))

/-! ## BDShotDecoder -/

/-- O22. `decode` after step 1: differential decode, four groups MSB first, one table lookup each, and the CRC; any invalid group
fails the whole decode, whatever the table; then a CRC mismatch fails it; a frame carries the payload and the CRC received
and is the classification of them (rules R150 to R155). -/
def Obligations.DecodeFollowsItsSteps : Prop :=
  ∀ (s : State) (high low : List Nat) (rbt : Nat),
    (runsToBits s.cfg high low rbt = none → exec (.decode high low rbt) s = .next (Claims.decodeFailed s)) ∧
    (∀ n21, runsToBits s.cfg high low rbt = some n21 →
      ((∃ k, k < 4 ∧ s.cfg.gcrTable[(Claims.group n21 k).toNat]?.getD none = none) →
        exec (.decode high low rbt) s = .next (Claims.decodeFailed s)) ∧
      (∀ a b c d : U4,
        s.cfg.gcrTable[(Claims.group n21 3).toNat]?.getD none = some a →
        s.cfg.gcrTable[(Claims.group n21 2).toNat]?.getD none = some b →
        s.cfg.gcrTable[(Claims.group n21 1).toNat]?.getD none = some c →
        s.cfg.gcrTable[(Claims.group n21 0).toNat]?.getD none = some d →
        (a ^^^ b ^^^ c ^^^ d ≠ 0#4 → exec (.decode high low rbt) s = .next (Claims.decodeFailed s)) ∧
        (a ^^^ b ^^^ c ^^^ d = 0#4 → ∃ p : U12,
          p.extractLsb' 8 4 = a ∧ p.extractLsb' 4 4 = b ∧ p.extractLsb' 0 4 = c ∧
          exec (.decode high low rbt) s = .next (Claims.returned s (.telemetry (some (classify p d)))))))

/-- O23. Classification by payload bit 8 alone, the kinds, and the eRPM value with its range (rules R155, R160; integer division
is the spec's own choice D14). -/
def Obligations.ClassificationIsByBitEight : Prop :=
  ∀ (p : U12) (crc : U4),
    (classify p crc).payload12 = p ∧ (classify p crc).crc4 = crc ∧
    (p.getLsbD 8 = false →
      (classify p crc).value = p.toNat % 256 ∧
      (classify p crc).kind =
        (if p.toNat / 256 = 2 then .edtTemperature else if p.toNat / 256 = 4 then .edtVoltage
         else if p.toNat / 256 = 6 then .edtCurrent else .edtOther)) ∧
    (p.getLsbD 8 = true →
      (classify p crc).kind = .erpm ∧ 917 ≤ (classify p crc).value ∧ (classify p crc).value ≤ 234375 ∧
      (classify p crc).value * ((p.toNat % 512) * 2 ^ (p.toNat / 512)) ≤ 60000000 ∧
      60000000 < ((classify p crc).value + 1) * ((p.toNat % 512) * 2 ^ (p.toNat / 512)))

/-- O24. With the synthetic lead bit and the default table no capture whatever decodes to a payload whose first nibble is 9, 0xA,
0xB, 0xD, 0xE or 0xF (rules R162, R277; the table is general knowledge G1, the mode the spec's own choice D11). -/
def Obligations.SyntheticLeadBitExcludesFirstNibbles : Prop :=
  ∀ (s : State) (high low : List Nat) (rbt : Nat) (f : TelemetryFrame),
    s.cfg.leadBitMode = .synthetic → s.cfg.gcrTable = defaultGcrTable →
    exec (.decode high low rbt) s = .next (Claims.returned s (.telemetry (some f))) →
    f.payload12.toNat / 256 ∉ [0x9, 0xA, 0xB, 0xD, 0xE, 0xF]

/-! ## ChannelAllocator -/

/-- O25. An acquire takes the lowest Free index of its range and no other entry, and where none is Free changes nothing and
returns `None` (rules R170, R171; inclusive bounds clipped to the pool are the spec's own choice D17). -/
def Obligations.AcquireTakesTheLowestFreeIndex : Prop :=
  ∀ s : State,
    (∀ first last i, Claims.LowestFree s.pool first last i →
      exec (.allocAcquireInRange first last) s = .next (Claims.pooled s (s.pool.set i true) (.index (some i)))) ∧
    (∀ first last, Claims.AllTaken s.pool first last →
      exec (.allocAcquireInRange first last) s = .next (Claims.returned s (.index none))) ∧
    (∀ i, Claims.LowestFree s.pool 0 (s.pool.length - 1) i →
      exec .allocAcquireAny s = .next (Claims.pooled s (s.pool.set i true) (.index (some i)))) ∧
    (Claims.AllTaken s.pool 0 (s.pool.length - 1) → exec .allocAcquireAny s = .next (Claims.returned s (.index none)))

/-- O26. `acquire_any` succeeds exactly while an entry is Free, and each success leaves one Free entry less; so from N Free
entries N acquisitions succeed and one more fails (rule R170; the scan's direction is the spec's own choice D17). -/
def Obligations.EachAcquireUsesOneFreeEntry : Prop :=
  ∀ s : State, ∃ t, exec .allocAcquireAny s = .next t ∧
    (0 < Claims.freeCount s.pool →
      Claims.freeCount t.pool + 1 = Claims.freeCount s.pool ∧
      ∃ i, t.results = s.results ++ [.index (some i)] ∧ s.pool[i]? = some false ∧ t.pool[i]? = some true) ∧
    (Claims.freeCount s.pool = 0 → t = Claims.returned s (.index none))

/-- O27. `release` makes an entry of the pool Free and touches no other; an already Free or out-of-range index is a no-op, and a
second release changes nothing (rule R172). -/
def Obligations.ReleaseIsIdempotent : Prop :=
  ∀ (s : State) (index : Nat), ∃ p : List Bool,
    exec (.allocRelease index) s = .next (Claims.pooled s p .unit) ∧
    p.length = s.pool.length ∧ (∀ j, j ≠ index → p[j]? = s.pool[j]?) ∧
    (index < s.pool.length → p[index]? = some false) ∧
    (s.pool[index]? = some false ∨ s.pool.length ≤ index → p = s.pool) ∧
    exec (.allocRelease index) (Claims.pooled s p .unit) = .next (Claims.pooled (Claims.pooled s p .unit) p .unit)

/-- O28. `count_free` returns the number of indices with `taken[i] = false` and changes nothing (rule R176). -/
def Obligations.CountFreeCountsTheFreeEntries : Prop :=
  ∀ s : State, exec .allocCountFree s = .next (Claims.returned s (.nat (Claims.freeCount s.pool)))

/-- O29. `is_taken` changes nothing; an out-of-range index is reported not taken (rule R177; spec's own choice D17). -/
def Obligations.IsTakenReadsOneEntry : Prop :=
  ∀ (s : State) (index : Nat),
    exec (.allocIsTaken index) s = .next (Claims.returned s (.bool (s.pool[index]? == some true)))

/-! ## Leases -/

/-- O30. A lease's acquire gives back what the lease holds, then takes the lowest Free index of its range; where none is Free the
lease is left empty and the result is false (rules R180, R181; spec's own choices D17, D19). -/
def Obligations.LeaseAcquireReplacesWhatItHolds : Prop :=
  ∀ (s : State) (l : LeaseId), (s.lease l).destroyed = false →
    (∀ first last i, Claims.LowestFree (Claims.givenBack (s.lease l).lease s.pool) first last i →
      ∃ t, exec (.leaseAcquireInRange l first last) s = .next t ∧
        Claims.LeaseStep s t l { lease := { held := some i }, destroyed := false }
          ((Claims.givenBack (s.lease l).lease s.pool).set i true) (.bool true)) ∧
    (∀ first last, Claims.AllTaken (Claims.givenBack (s.lease l).lease s.pool) first last →
      ∃ t, exec (.leaseAcquireInRange l first last) s = .next t ∧
        Claims.LeaseStep s t l { lease := { held := none }, destroyed := false }
          (Claims.givenBack (s.lease l).lease s.pool) (.bool false)) ∧
    (∀ i, Claims.LowestFree (Claims.givenBack (s.lease l).lease s.pool) 0 (s.pool.length - 1) i →
      ∃ t, exec (.leaseAcquireAny l) s = .next t ∧
        Claims.LeaseStep s t l { lease := { held := some i }, destroyed := false }
          ((Claims.givenBack (s.lease l).lease s.pool).set i true) (.bool true)) ∧
    (Claims.AllTaken (Claims.givenBack (s.lease l).lease s.pool) 0 (s.pool.length - 1) →
      ∃ t, exec (.leaseAcquireAny l) s = .next t ∧
        Claims.LeaseStep s t l { lease := { held := none }, destroyed := false }
          (Claims.givenBack (s.lease l).lease s.pool) (.bool false))

/-- O31. `L.release()` gives the index back once: the entry it held becomes Free, the lease is empty, and a second release
changes neither the pool nor the lease (rule R182). -/
def Obligations.LeaseReleaseGivesTheIndexBackOnce : Prop :=
  ∀ (s : State) (l : LeaseId), (s.lease l).destroyed = false →
    ∃ t u, exec (.leaseRelease l) s = .next t ∧ exec (.leaseRelease l) t = .next u ∧
      Claims.LeaseStep s t l { lease := { held := none }, destroyed := false }
        (Claims.givenBack (s.lease l).lease s.pool) .unit ∧
      Claims.LeaseStep t u l { lease := { held := none }, destroyed := false } t.pool .unit

/-- O32. `L.disown()` empties the lease, returns the index it held, and leaves the pool as it is (rule R183; the result is the
spec's own choice D19); `L.destroy()` is a release after which the lease's life has ended (rule R184; kept as a flag by the
model's choice, log entry 15). -/
def Obligations.DisownKeepsAndDestroyReleases : Prop :=
  ∀ (s : State) (l : LeaseId), (s.lease l).destroyed = false →
    (∃ t, exec (.leaseDisown l) s = .next t ∧
      Claims.LeaseStep s t l { lease := { held := none }, destroyed := false } s.pool
        (.index (s.lease l).lease.held)) ∧
    (∃ t, exec (.leaseDestroy l) s = .next t ∧
      Claims.LeaseStep s t l { lease := { held := none }, destroyed := true }
        (Claims.givenBack (s.lease l).lease s.pool) .unit)

/-- O33. No operation may name a destroyed lease (rule R184, V3; the refusal is the spec's treatment of V3). -/
def Obligations.DestroyedLeaseMayNotBeNamed : Prop :=
  ∀ (s : State) (l : LeaseId) (i : Instr), (s.lease l).destroyed = true →
    (i = .leaseAcquireAny l ∨ (∃ first last, i = .leaseAcquireInRange l first last) ∨ i = .leaseRelease l ∨
      i = .leaseDestroy l ∨ i = .leaseDisown l) →
    exec i s = .refused (.leaseDestroyed l)

/-! ## EscLinkScheduler -/

/-- O34. A `begin` that fails, on an idle instance with empty leases: no Free entry for the transmit lease, else (with BIDIR) none
for the receive lease once the transmit index is taken, else the engine's refusal; each returns false, leaves pool, leases
and every field as before, and notes its kind (rules R190, R230, R234; order and ranges are the spec's own choice D20). -/
def Obligations.FailedBeginLeavesNothingBehind : Prop :=
  ∀ (s : State) (k : InstId) (i : Instance), s.inst k = i → i.busy = none → i.initialized = false →
    i.tx.held = none → i.rx.held = none →
    (Claims.AllTaken s.pool (s.instCfg k).txRange.1 (s.instCfg k).txRange.2 →
      ∃ t, exec (.schedBegin k) s = .next t ∧
        Claims.InstStep s t k { i with diagLog := i.diagLog ++ [.resourceExhausted] } s.pool (.bool false)) ∧
    (∀ a, Claims.LowestFree s.pool (s.instCfg k).txRange.1 (s.instCfg k).txRange.2 a →
      ((s.instCfg k).bidir = true ∧ Claims.AllTaken (s.pool.set a true) (s.instCfg k).rxRange.1 (s.instCfg k).rxRange.2 →
        ∃ t, exec (.schedBegin k) s = .next t ∧
          Claims.InstStep s t k { i with diagLog := i.diagLog ++ [.resourceExhausted] } s.pool (.bool false)) ∧
      (∀ rx, ((s.instCfg k).bidir = false ∧ rx = none ∨
          (s.instCfg k).bidir = true ∧ ∃ b, rx = some b ∧
            Claims.LowestFree (s.pool.set a true) (s.instCfg k).rxRange.1 (s.instCfg k).rxRange.2 b) →
        Claims.configureAnswer k i = false →
        ∃ t, exec (.schedBegin k) s = .next t ∧
          Claims.InstStep s t k
            { Claims.afterConfigure k { held := some a } { held := rx } i with
              diagLog := i.diagLog ++ [.hardwareConfigFailed] } s.pool (.bool false)))

/-- O35. A `begin` that succeeds takes the lowest Free index of TX_RANGE and, with BIDIR, then of RX_RANGE, leaves the instance's
fields at their reset values and initialized, transmits nothing and returns true (rules R32, R190; spec's own choices D20,
D40). -/
def Obligations.SuccessfulBeginTakesItsLeases : Prop :=
  ∀ (s : State) (k : InstId) (i : Instance) (a : Nat) (rx : Option Nat) (p : List Bool),
    s.inst k = i → i.busy = none → i.initialized = false → i.tx.held = none → i.rx.held = none →
    Claims.LowestFree s.pool (s.instCfg k).txRange.1 (s.instCfg k).txRange.2 a →
    ((s.instCfg k).bidir = false ∧ rx = none ∧ p = s.pool.set a true ∨
      (s.instCfg k).bidir = true ∧ ∃ b, rx = some b ∧ p = (s.pool.set a true).set b true ∧
        Claims.LowestFree (s.pool.set a true) (s.instCfg k).rxRange.1 (s.instCfg k).rxRange.2 b) →
    Claims.configureAnswer k i = true →
    ∃ t, exec (.schedBegin k) s = .next t ∧
      Claims.InstStep s t k
        (Claims.restarted true { held := some a } { held := rx }
          (Claims.afterConfigure k { held := some a } { held := rx } i)) p (.bool true)

/-- O36. `begin` on an initialized instance is refused (rule R190, V1; spec's own choice D21), and so is every operation on an
instance that has one in flight (rule R68, V2; spec's own choice D39). -/
def Obligations.BeginTwiceAndOverlapAreRefused : Prop :=
  ∀ (s : State) (k : InstId),
    ((s.inst k).busy = none → (s.inst k).initialized = true →
      exec (.schedBegin k) s = .refused (.beginWhileInitialized k)) ∧
    ((s.inst k).busy ≠ none →
      exec (.schedBegin k) s = .refused (.overlap k) ∧ exec (.schedEnd k) s = .refused (.overlap k) ∧
      (∀ on, exec (.schedArm k on) s = .refused (.overlap k)) ∧
      (∀ x, exec (.schedWriteNormalized k x) s = .refused (.overlap k)) ∧
      (∀ code, exec (.schedSendSpecial k code) s = .refused (.overlap k)) ∧
      exec (.schedReadTelemetry k) s = .refused (.overlap k))

/-- O37. `end` on an initialized instance transmits the idle frame once, with the telemetry bit 0, gives both indices back
whatever the engine answers, and resets the fields; on one that is not initialized it only resets them (rules R197, R205;
spec's own choices D24, D35). -/
def Obligations.EndGoesIdleAndReleases : Prop :=
  ∀ (s : State) (k : InstId) (i : Instance), s.inst k = i → i.busy = none →
    (i.initialized = true →
      ∃ t, exec (.schedEnd k) s = .next t ∧
        Claims.InstStep s t k
          (Claims.restarted false { held := none } { held := none }
            (Claims.afterTransmit (s.instCfg k) k (buildFrame (s.instCfg k).idleCode 0#1) i))
          (Claims.givenBack i.tx (Claims.givenBack i.rx s.pool)) .unit) ∧
    (i.initialized = false →
      ∃ t, exec (.schedEnd k) s = .next t ∧
        Claims.InstStep s t k (Claims.restarted false i.tx i.rx i) s.pool .unit)

/-- O38. `arm(true)` moves Disarmed to ArmedZero and nothing else; `arm(false)` moves any link to Disarmed and, if the instance is
initialized, transmits the idle frame outside gate and cadence (rules R191, R197, R206; spec's own choices D22 to D24). -/
def Obligations.ArmMovesTheLink : Prop :=
  ∀ (s : State) (k : InstId) (i : Instance), s.inst k = i → i.busy = none →
    (∃ t, exec (.schedArm k true) s = .next t ∧
      Claims.InstStep s t k { i with link := if i.link = .disarmed then .armedZero else i.link } s.pool .unit) ∧
    (∃ t, exec (.schedArm k false) s = .next t ∧
      Claims.InstStep s t k
        { (if i.initialized then Claims.afterTransmit (s.instCfg k) k (buildFrame (s.instCfg k).idleCode 0#1) i else i) with
          link := .disarmed } s.pool .unit)

/-- O39. A commanding operation on an instance that is Disarmed or not initialized returns false and changes nothing, the clock
unread (rules R192, R195, R232; spec's own choices D22, D30). -/
def Obligations.CommandsNeedAnArmedLink : Prop :=
  ∀ (s : State) (k : InstId) (i : Instr), (s.inst k).busy = none →
    ((s.inst k).initialized = false ∨ (s.inst k).link = .disarmed) →
    ((∃ x, i = .schedWriteNormalized k x) ∨ (∃ code, i = .schedSendSpecial k code)) →
    ∃ t, exec i s = .next t ∧ Claims.InstStep s t k (s.inst k) s.pool (.bool false)

/-- O40. `write_normalized` on an armed, initialized instance: the hysteresis step first, its link kept whatever follows, then the
gate, then the transmission of the throttle used (rules R192 to R198, R234; spec's own choices D1, D24 to D32). -/
def Obligations.WriteNormalizedFollowsItsSteps : Prop :=
  ∀ (s : State) (k : InstId) (i : Instance) (x : ThrottleInput), s.inst k = i → i.busy = none →
    i.initialized = true → i.link ≠ .disarmed →
    ∃ t b j link' used, exec (.schedWriteNormalized k x) s = .next t ∧
      Claims.Hysteresis i.link x link' used ∧ Claims.InstStep s t k j s.pool (.bool b) ∧
      Claims.Gated (s.instCfg k) k (encodeThrottle (s.instCfg k) used) { i with link := link' } b j

/-- O41. `send_special` on an armed, initialized instance: the gate, then the transmission of the clamped code; the link does not
move (rules R195, R196, R198; spec's own choices D24 to D32). -/
def Obligations.SendSpecialFollowsItsSteps : Prop :=
  ∀ (s : State) (k : InstId) (i : Instance) (code : U8), s.inst k = i → i.busy = none →
    i.initialized = true → i.link ≠ .disarmed →
    ∃ t b j, exec (.schedSendSpecial k code) s = .next t ∧ Claims.InstStep s t k j s.pool (.bool b) ∧
      Claims.Gated (s.instCfg k) k (BitVec.ofNat 11 (min code.toNat 47)) i b j ∧ j.link = i.link

/-- O42. `read_telemetry` returns the cached frame exactly where it is fresh, clears only the flag, and a second read returns
`None` (rule R204). -/
def Obligations.ReadTelemetryConsumesTheSample : Prop :=
  ∀ (s : State) (k : InstId) (i : Instance), s.inst k = i → i.busy = none →
    ∃ t u, exec (.schedReadTelemetry k) s = .next t ∧ exec (.schedReadTelemetry k) t = .next u ∧
      Claims.InstStep s t k { i with cache := { i.cache with fresh := false } } s.pool
        (.telemetry (if i.cache.fresh then i.cache.frame else none)) ∧
      Claims.InstStep t u k { i with cache := { i.cache with fresh := false } } s.pool (.telemetry none)

/-- O43. A decoded frame enters the cache: it becomes the last frame and fresh; its kind writes its own scalar, the RPM divided by
the pole pairs and clamped to 65535, the raw byte times its constant, and no other (rule R199; spec's own choices D14,
D33). -/
def Obligations.CacheUpdateWritesOneScalar : Prop :=
  ∀ (c : Config) (polePairs : Nat) (f : TelemetryFrame) (old : Cache),
    (cacheUpdate c polePairs f old).fresh = true ∧ (cacheUpdate c polePairs f old).frame = some f ∧
    (cacheUpdate c polePairs f old).rpm.toNat =
      (if f.kind = .erpm then min (f.value / polePairs) 65535 else old.rpm.toNat) ∧
    (cacheUpdate c polePairs f old).temperature =
      (if f.kind = .edtTemperature then f.value * c.kTemp else old.temperature) ∧
    (cacheUpdate c polePairs f old).voltage = (if f.kind = .edtVoltage then f.value * c.kVolt else old.voltage) ∧
    (cacheUpdate c polePairs f old).current = (if f.kind = .edtCurrent then f.value * c.kCurr else old.current)

/-- O44. The telemetry cadence: from counter 0, of the permitted transmissions exactly those numbered by multiples of the divisor
carry the telemetry bit, and the counter is the number of transmissions modulo the divisor (rule R196; spec's own choice
D29). -/
def Obligations.TelemetryBitComesEveryDivisor : Prop :=
  ∀ (divisor n : Nat), 1 ≤ divisor →
    (Claims.cadenceRun divisor n).1 = n % divisor ∧
    (Claims.cadenceRun divisor (n + 1)).2.head? = some (if (n + 1) % divisor = 0 then 1#1 else 0#1)

/-- O45. Two `write_normalized` calls closer together than the period, the first of which sent its frame, put exactly one frame
on the wire (rules R194, R207). -/
def Obligations.TwoCloseWritesSendOneFrame : Prop :=
  ∀ (s t : State) (k : InstId) (x y : ThrottleInput),
    exec (.schedWriteNormalized k x) s = .next t → t.results = s.results ++ [.bool true] →
    Claims.clockReading k (t.inst k) < (t.inst k).env.time + (t.inst k).periodUs →
    ∃ u w, exec (.schedWriteNormalized k y) t = .next u ∧ u.results = t.results ++ [.bool false] ∧
      (t.inst k).txLog = (s.inst k).txLog ++ [w] ∧ (u.inst k).txLog = (t.inst k).txLog

/-- O46. With an IDLE_CODE of 48 or more, no step that issues no `send_special` on an instance puts a command value below 48 on its
wire: not the throttle path, not the idle path of `arm(false)` or of a whole `end`, not the idle frame of an `end` in flight.
Command value 0 is reached through `send_special` only (rules R83, R110, R197, R274; spec's own choices D2, D3, D4; the grain of
`end` is the model's choice, log entry 21). -/
def Obligations.ThrottleAndIdleNeverSendCodeZero : Prop :=
  ∀ (s t : State) (k : InstId), 48 ≤ (s.instCfg k).idleCode.toNat →
    (∀ code, s.nextInstr ≠ some (.schedSendSpecial k code)) → step s = .next t →
    ∃ sent, (t.inst k).txLog = (s.inst k).txLog ++ sent ∧ ∀ w ∈ sent, 48 ≤ (w.extractLsb' 5 11 : U11).toNat

/-! ## The whole machine -/

/-- O47. The canonical form of the pool and of the tables of instances and leases is kept by every step (rules R22, R25, R30; the
tables are the model's choice, log entry 5). -/
def Obligations.EveryStepKeepsTheCanonicalForm : Prop :=
  ∀ s t : State, Memory.wf s = true → step s = .next t → Memory.wf t = true

/-- O48. The scheduler's invariant is kept by every step: constants as configured, counter below divisor, a cache of decoded
frames only, and an idle instance initialized exactly when its transmit lease is live, its receive lease live exactly with
BIDIR besides (rules R30, R33, R34, R36, R190, R205). -/
def Obligations.EveryStepKeepsTheSchedulerInvariant : Prop :=
  ∀ s t : State, SchedulerInv s → step s = .next t → SchedulerInv t

/-- O49. The pool-lease invariant is kept by every step that is no raw release of an index a live lease holds: a live lease's
entry is Taken, and no two live leases hold the same index (rules R27, R185, R270). -/
def Obligations.EveryOwningStepKeepsLeasesExclusive : Prop :=
  ∀ s t : State, PoolLeaseInv s → KeepsOwnership s → step s = .next t → PoolLeaseInv t

/-- O50. A system that is constructed has the three invariants, every entry Free, every lease empty and every instance at its
reset values; `State.reset` is the one constructed with the model's default configuration (rules R23, R26, R32, R261; spec's own
choices D18, D40; the configuration of `State.reset` and instances with one of their own are the model's choice, log entries 1
and 23). -/
def Obligations.ConstructionIsSafe : Prop :=
  (∀ (c : Config) (own : List (Nat × Config)) (s : State), State.construct c own = .next s →
    Safe s ∧ s.cfg = c ∧ s.pool.length = c.poolSize ∧ (∀ i, i < c.poolSize → s.pool[i]? = some false) ∧
    (∀ l, (s.lease l).lease.held = none ∧ (s.lease l).destroyed = false) ∧
    (∀ k, (s.inst k).link = .disarmed ∧ (s.inst k).nextDue = 0 ∧ (s.inst k).counter = 0 ∧
      (s.inst k).initialized = false ∧ (s.inst k).tx.held = none ∧ (s.inst k).rx.held = none ∧
      (s.inst k).periodUs = (s.instCfg k).periodUs ∧ (s.inst k).divisor = (s.instCfg k).telemetryDivisor ∧
      (s.inst k).polePairs = (s.instCfg k).polePairs ∧ (s.inst k).txLog = [] ∧ (s.inst k).diagLog = [] ∧
      (s.inst k).cache =
        { fresh := false, frame := none, rpm := 0, temperature := 0, voltage := 0, current := 0 }) ∧
    (∀ k, (∀ e ∈ own, e.1 ≠ k) → s.instCfg k = c) ∧ (∀ k d, own = [(k, d)] → s.instCfg k = d)) ∧
  State.construct defaultConfig [] = .next State.reset

/-- O51. A `begin` or an `end` left in flight and stepped with nothing in between leaves exactly what the whole operation does
(rules R68, R251; the two forms are the model's choice, log entries 4 and 21). -/
def Obligations.SteppedLifecycleIsTheWholeOperation : Prop :=
  ∀ (s t : State) (k : InstId),
    (exec (.schedBegin k) s = .next t → ∃ u n, startBegin k s = .next u ∧ n ≤ 5 ∧ (resumeInst k)^[n] u = t) ∧
    (exec (.schedEnd k) s = .next t → ∃ u n, startEnd k s = .next u ∧ n ≤ 3 ∧ (resumeInst k)^[n] u = t)

/-- O60. The grain of `begin` and `end`. Left in flight they change nothing but where the instance stands, and are refused where
the whole operation is. Resumed, each step makes one call to the allocator or the engine, on what pool and engine then are, and
the fields are reset and the result returned with the last; every other instance and every lease is as before (rules R68, R190,
R205, R251, R280; spec's own choices D20, D21, D24, D35, D39; that the two can be left in flight is the model's choice, log
entries 4 and 21). -/
def Obligations.LifecycleStepsMakeOneCallEach : Prop :=
  ∀ (s : State) (k : InstId) (i : Instance), s.inst k = i →
    (i.busy ≠ none → startBegin k s = .refused (.overlap k) ∧ startEnd k s = .refused (.overlap k)) ∧
    (i.busy = none → i.initialized = true → startBegin k s = .refused (.beginWhileInitialized k)) ∧
    (i.busy = none → i.initialized = false →
      ∃ t, startBegin k s = .next t ∧ Claims.PartStep s t k { i with busy := some .beginTx } s.pool []) ∧
    (i.busy = none →
      ∃ t, startEnd k s = .next t ∧
        Claims.PartStep s t k { i with busy := some (if i.initialized then .endTransmit else .endReset) } s.pool []) ∧
    (i.busy = none → resumeInst k s = s) ∧
    (i.busy = some .beginTx → ∀ p, p = Claims.givenBack i.tx s.pool →
      (∀ a, Claims.LowestFree p (s.instCfg k).txRange.1 (s.instCfg k).txRange.2 a →
        Claims.PartStep s (resumeInst k s) k
          { i with tx := { held := some a }, busy := some (if (s.instCfg k).bidir then .beginRx else .beginConfigure) }
          (p.set a true) []) ∧
      (Claims.AllTaken p (s.instCfg k).txRange.1 (s.instCfg k).txRange.2 →
        Claims.PartStep s (resumeInst k s) k
          { i with tx := { held := none }, busy := none, diagLog := i.diagLog ++ [.resourceExhausted] } p [.bool false])) ∧
    (i.busy = some .beginRx → ∀ p, p = Claims.givenBack i.rx s.pool →
      (∀ b, Claims.LowestFree p (s.instCfg k).rxRange.1 (s.instCfg k).rxRange.2 b →
        Claims.PartStep s (resumeInst k s) k { i with rx := { held := some b }, busy := some .beginConfigure }
          (p.set b true) []) ∧
      (Claims.AllTaken p (s.instCfg k).rxRange.1 (s.instCfg k).rxRange.2 →
        Claims.PartStep s (resumeInst k s) k { i with rx := { held := none }, busy := some (.undoTx .resourceExhausted) }
          p [])) ∧
    (i.busy = some .beginConfigure →
      (Claims.configureAnswer k i = true →
        Claims.PartStep s (resumeInst k s) k
          { Claims.restarted true i.tx i.rx (Claims.afterConfigure k i.tx i.rx i) with busy := none } s.pool [.bool true]) ∧
      (Claims.configureAnswer k i = false →
        Claims.PartStep s (resumeInst k s) k
          { Claims.afterConfigure k i.tx i.rx i with busy := some (.undoRx .hardwareConfigFailed) } s.pool [])) ∧
    (∀ why, i.busy = some (.undoRx why) →
      Claims.PartStep s (resumeInst k s) k { i with rx := { held := none }, busy := some (.undoTx why) }
        (Claims.givenBack i.rx s.pool) []) ∧
    (∀ why, i.busy = some (.undoTx why) →
      Claims.PartStep s (resumeInst k s) k { i with tx := { held := none }, busy := none, diagLog := i.diagLog ++ [why] }
        (Claims.givenBack i.tx s.pool) [.bool false]) ∧
    (i.busy = some .endTransmit →
      Claims.PartStep s (resumeInst k s) k
        { Claims.afterTransmit (s.instCfg k) k (buildFrame (s.instCfg k).idleCode 0#1) i with busy := some .endRx }
        s.pool []) ∧
    (i.busy = some .endRx →
      Claims.PartStep s (resumeInst k s) k { i with rx := { held := none }, busy := some .endTx }
        (Claims.givenBack i.rx s.pool) []) ∧
    (i.busy = some .endTx →
      Claims.PartStep s (resumeInst k s) k { Claims.restarted false { held := none } i.rx i with busy := none }
        (Claims.givenBack i.tx s.pool) [.unit]) ∧
    (i.busy = some .endReset →
      Claims.PartStep s (resumeInst k s) k { Claims.restarted false i.tx i.rx i with busy := none } s.pool [.unit])

/-- O52. An instance changes only by an event that names it (rules R20, R68, R248). -/
def Obligations.InstancesChangeOnlyByTheirOwnEvents : Prop :=
  ∀ (s t : State) (k : InstId), step s = .next t → (∀ e, s.agenda.head? = some e → ¬ Claims.names e k) →
    t.inst k = s.inst k

/-- O59. A standalone lease changes only by an operation that names it: not by an operation on another lease, not by a raw
operation on the pool, not by an operation on an instance, whole, left in flight or resumed (rules R20, R25, R67, R270). -/
def Obligations.LeasesChangeOnlyByTheirOwnOperations : Prop :=
  ∀ (s t : State) (l : LeaseId), step s = .next t → (∀ i, s.nextInstr = some i → ¬ Claims.namesLease i l) →
    t.lease l = s.lease l

/-- O53. The configuration, and each instance's copies of it, never change (rules R8, R30, R74; spec's own choice D42). -/
def Obligations.ConfigurationNeverChanges : Prop :=
  ∀ s t : State, step s = .next t →
    t.cfg = s.cfg ∧ t.instCfgs = s.instCfgs ∧
    ∀ k, (t.inst k).periodUs = (s.inst k).periodUs ∧ (t.inst k).divisor = (s.inst k).divisor ∧
      (t.inst k).polePairs = (s.inst k).polePairs

/-- O54. A frame reaches the wire of an instance only by `write_normalized`, `send_special`, `arm(false)` or `end` issued on it, or
by the transmit step of its `end` in flight: the core sends nothing on its own (rules R251, R273). -/
def Obligations.FramesComeFromCommandsOnly : Prop :=
  ∀ (s t : State) (k : InstId), step s = .next t → (t.inst k).txLog ≠ (s.inst k).txLog →
    (∃ x, s.nextInstr = some (.schedWriteNormalized k x)) ∨ (∃ code, s.nextInstr = some (.schedSendSpecial k code)) ∨
    s.nextInstr = some (.schedArm k false) ∨ s.nextInstr = some (.schedEnd k) ∨
    (s.agenda.head? = some (.resume k) ∧ (s.inst k).busy = some .endTransmit)

/-- O55. The complete transition relation of the link: it arms by `arm(true)` only, to ArmedZero; becomes active only by
`write_normalized(x)` with x ≥ 0.04; returns to zero only by one with x ≤ 0.02; and disarms only by `arm(false)`, `begin` or
`end` (rule R206; spec's own choices D1, D23, D25, D26). -/
def Obligations.LinkFollowsItsTransitionTable : Prop :=
  ∀ (s t : State) (k : InstId), step s = .next t → (t.inst k).link ≠ (s.inst k).link →
    ((s.inst k).link = .disarmed ∧ (t.inst k).link = .armedZero ∧ s.nextInstr = some (.schedArm k true)) ∨
    ((s.inst k).link = .armedZero ∧ (t.inst k).link = .armedActive ∧ (s.inst k).initialized = true ∧
      ∃ x, s.nextInstr = some (.schedWriteNormalized k x) ∧ Claims.AtLeast x (1 / 25)) ∨
    ((s.inst k).link = .armedActive ∧ (t.inst k).link = .armedZero ∧ (s.inst k).initialized = true ∧
      ∃ x, s.nextInstr = some (.schedWriteNormalized k x) ∧ Claims.AtMost x (1 / 50)) ∨
    ((t.inst k).link = .disarmed ∧
      (s.nextInstr = some (.schedArm k false) ∨ s.nextInstr = some (.schedBegin k) ∨
        s.nextInstr = some (.schedEnd k) ∨ s.agenda.head? = some (.resume k)))

/-- O56. The pool is written by the acquiring and releasing operations, `begin` and `end` only, and no step makes an entry appear
or vanish (rules R22, R37). -/
def Obligations.PoolHasItsWritersOnly : Prop :=
  ∀ s t : State, step s = .next t →
    t.pool.length = s.pool.length ∧
    (t.pool ≠ s.pool →
      s.nextInstr = some .allocAcquireAny ∨ (∃ first last, s.nextInstr = some (.allocAcquireInRange first last)) ∨
      (∃ index, s.nextInstr = some (.allocRelease index)) ∨ (∃ l, s.nextInstr = some (.leaseAcquireAny l)) ∨
      (∃ l first last, s.nextInstr = some (.leaseAcquireInRange l first last)) ∨
      (∃ l, s.nextInstr = some (.leaseRelease l)) ∨ (∃ l, s.nextInstr = some (.leaseDestroy l)) ∨
      (∃ k, s.nextInstr = some (.schedBegin k)) ∨ (∃ k, s.nextInstr = some (.schedEnd k)) ∨
      (∃ k, s.agenda.head? = some (.resume k)))

/-- O57. The clock an instance reads never runs backwards, whatever its environment answers (rule R240; how the clock is held is
the model's choice, log entry 3). -/
def Obligations.ClockNeverRunsBackwards : Prop :=
  ∀ (s t : State) (k : InstId), step s = .next t → (s.inst k).env.time ≤ (t.inst k).env.time
end

