-- ==== Sys2Proof/Laws/Table.lean ====
section
/-! SUPPORT. The laws of the tables of objects: read after write, other names untouched, canonical form kept. -/

namespace Sys2Proof.Laws
open Sys2Proof.Machine

variable {α : Type}

theorem tableErase_keys (name : Nat) (t : List (Nat × α)) : ∀ e ∈ tableErase name t, e.1 ≠ name := by
  intro e he
  simpa using (List.mem_filter.mp he).2

theorem tableFind_of_absent (d : α) (name : Nat) (t : List (Nat × α)) (h : ∀ e ∈ t, e.1 ≠ name) :
    tableFind d name t = d := by
  induction t with
  | nil => rfl
  | cons e rest ih =>
    simp only [tableFind, h e (by simp), if_false]
    exact ih fun e' he' => h e' (by simp [he'])

theorem tableFind_erase_other (d : α) {name other : Nat} (hne : other ≠ name) (t : List (Nat × α)) :
    tableFind d other (tableErase name t) = tableFind d other t := by
  induction t with
  | nil => rfl
  | cons e rest ih =>
    by_cases h : e.1 = name
    · have hno : ¬ e.1 = other := fun h' => hne (h'.symm.trans h)
      have he : tableErase name (e :: rest) = tableErase name rest := by simp [tableErase, h]
      rw [he, ih]
      simp [tableFind, hno]
    · have he : tableErase name (e :: rest) = e :: tableErase name rest := by simp [tableErase, h]
      simp only [he, tableFind, ih]

theorem tableFind_insert_same (d a : α) (name : Nat) (t : List (Nat × α)) (h : ∀ e ∈ t, e.1 ≠ name) :
    tableFind d name (tableInsert name a t) = a := by
  induction t with
  | nil => simp [tableInsert, tableFind]
  | cons e rest ih =>
    by_cases hlt : name < e.1
    · simp [tableInsert, hlt, tableFind]
    · have := h e (by simp)
      simp [tableInsert, hlt, tableFind, this, ih fun e' he' => h e' (by simp [he'])]

theorem tableFind_insert_other (d a : α) {name other : Nat} (hne : other ≠ name) (t : List (Nat × α)) :
    tableFind d other (tableInsert name a t) = tableFind d other t := by
  induction t with
  | nil => simp [tableInsert, tableFind, hne.symm]
  | cons e rest ih =>
    by_cases hlt : name < e.1
    · simp [tableInsert, hlt, tableFind, hne.symm]
    · simp [tableInsert, hlt, tableFind, ih]

theorem tableErase_insert (name : Nat) (a : α) (t : List (Nat × α)) :
    tableErase name (tableInsert name a t) = tableErase name t := by
  induction t with
  | nil => simp [tableInsert, tableErase]
  | cons e rest ih =>
    by_cases hlt : name < e.1
    · simp [tableInsert, hlt, tableErase]
    · simp only [tableInsert, hlt, if_false]
      simp only [tableErase, List.filter_cons] at ih ⊢
      rw [ih]

theorem tableErase_erase (name : Nat) (t : List (Nat × α)) : tableErase name (tableErase name t) = tableErase name t := by
  simp [tableErase]

theorem mem_tableInsert {name : Nat} {a : α} {t : List (Nat × α)} {e : Nat × α} (h : e ∈ tableInsert name a t) :
    e = (name, a) ∨ e ∈ t := by
  induction t with
  | nil => simpa [tableInsert] using h
  | cons x rest ih =>
    by_cases hlt : name < x.1
    · simpa [tableInsert, hlt] using h
    · simp only [tableInsert, hlt, if_false, List.mem_cons] at h
      rcases h with h | h
      · simp [h]
      · rcases ih h with h' | h' <;> simp [h']

variable [DecidableEq α]

/-- Reading a name just written gives what was written. -/
@[simp] theorem tableFind_put_same (d a : α) (name : Nat) (t : List (Nat × α)) :
    tableFind d name (tablePut d name a t) = a := by
  unfold tablePut
  split
  · next h => rw [tableFind_of_absent d name _ (tableErase_keys name t), h]
  · exact tableFind_insert_same d a name _ (tableErase_keys name t)

/-- Writing one name leaves every other. -/
theorem tableFind_put_other (d d' a : α) {name other : Nat} (hne : other ≠ name) (t : List (Nat × α)) :
    tableFind d' other (tablePut d name a t) = tableFind d' other t := by
  unfold tablePut
  split
  · exact tableFind_erase_other d' hne t
  · rw [tableFind_insert_other d' a hne, tableFind_erase_other d' hne]

/-- The later of two writes of one name stands. -/
@[simp] theorem tablePut_put (d a b : α) (name : Nat) (t : List (Nat × α)) :
    tablePut d name a (tablePut d name b t) = tablePut d name a t := by
  have : tableErase name (tablePut d name b t) = tableErase name t := by
    unfold tablePut
    split
    · exact tableErase_erase name t
    · rw [tableErase_insert, tableErase_erase]
  unfold tablePut at this ⊢
  rw [this]

theorem tableWf_erase (d : Nat → α) (name : Nat) (t : List (Nat × α)) (h : tableWf d t = true) :
    tableWf d (tableErase name t) = true := by
  induction t with
  | nil => rfl
  | cons e rest ih =>
    simp only [tableWf, Bool.and_eq_true, decide_eq_true_eq, List.all_eq_true] at h
    by_cases hn : e.1 = name
    · simpa [tableErase, hn] using ih h.2
    · simp only [tableErase, List.filter_cons, hn, ne_eq, not_false_eq_true, decide_true, if_true, tableWf,
        Bool.and_eq_true, decide_eq_true_eq, List.all_eq_true]
      exact ⟨⟨h.1.1, fun x hx => h.1.2 x (List.mem_filter.mp hx).1⟩, ih h.2⟩

theorem tableWf_insert (d : Nat → α) (a : α) (name : Nat) (ha : a ≠ d name) (t : List (Nat × α)) (hk : ∀ e ∈ t, e.1 ≠ name)
    (h : tableWf d t = true) : tableWf d (tableInsert name a t) = true := by
  induction t with
  | nil => simp [tableInsert, tableWf, ha]
  | cons e rest ih =>
    simp only [tableWf, Bool.and_eq_true, decide_eq_true_eq, List.all_eq_true] at h
    by_cases hlt : name < e.1
    · simp only [tableInsert, hlt, if_true, tableWf, Bool.and_eq_true, decide_eq_true_eq, List.all_eq_true,
        List.mem_cons]
      refine ⟨⟨ha, ?_⟩, ⟨h.1.1, h.1.2⟩, h.2⟩
      rintro x (rfl | hx)
      · exact hlt
      · exact Nat.lt_trans hlt (h.1.2 x hx)
    · have hne := hk e (by simp)
      have hgt : e.1 < name := by omega
      simp only [tableInsert, hlt, if_false, tableWf, Bool.and_eq_true, decide_eq_true_eq, List.all_eq_true]
      refine ⟨⟨h.1.1, ?_⟩, ih (fun e' he' => hk e' (by simp [he'])) h.2⟩
      intro x hx
      rcases mem_tableInsert hx with rfl | hx
      · exact hgt
      · exact h.1.2 x hx

/-- A write keeps the canonical form. -/
theorem tableWf_put (d : Nat → α) (a : α) (name : Nat) (t : List (Nat × α)) (h : tableWf d t = true) :
    tableWf d (tablePut (d name) name a t) = true := by
  unfold tablePut
  split
  · exact tableWf_erase d name t h
  · next hne => exact tableWf_insert d a name hne _ (tableErase_keys name t) (tableWf_erase d name t h)

end Sys2Proof.Laws
end

