-- ==== Sys2Proof/Laws/State.lean ====
section
/-! SUPPORT. One lemma per field per update of State, and what reading an object after each update gives. -/

namespace Sys2Proof.Laws
open Sys2Proof.Machine

variable (s : State) (k k' : InstId) (i : Instance) (l l' : LeaseId) (v : LeaseSlot) (p : List Bool) (r : Result) (d : Diag)

@[simp] theorem setInst_cfg : (s.setInst k i).cfg = s.cfg := rfl
@[simp] theorem setInst_instCfgs : (s.setInst k i).instCfgs = s.instCfgs := rfl
@[simp] theorem setInst_instCfg : (s.setInst k i).instCfg k' = s.instCfg k' := rfl
@[simp] theorem setInst_pool : (s.setInst k i).pool = s.pool := rfl
@[simp] theorem setInst_leases : (s.setInst k i).leases = s.leases := rfl
@[simp] theorem setInst_diagLog : (s.setInst k i).diagLog = s.diagLog := rfl
@[simp] theorem setInst_agenda : (s.setInst k i).agenda = s.agenda := rfl
@[simp] theorem setInst_results : (s.setInst k i).results = s.results := rfl
@[simp] theorem lease_setInst : (s.setInst k i).lease l' = s.lease l' := rfl

@[simp] theorem setLease_cfg : (s.setLease l v).cfg = s.cfg := rfl
@[simp] theorem setLease_instCfgs : (s.setLease l v).instCfgs = s.instCfgs := rfl
@[simp] theorem setLease_instCfg : (s.setLease l v).instCfg k' = s.instCfg k' := rfl
@[simp] theorem setLease_pool : (s.setLease l v).pool = s.pool := rfl
@[simp] theorem setLease_insts : (s.setLease l v).insts = s.insts := rfl
@[simp] theorem setLease_diagLog : (s.setLease l v).diagLog = s.diagLog := rfl
@[simp] theorem setLease_agenda : (s.setLease l v).agenda = s.agenda := rfl
@[simp] theorem setLease_results : (s.setLease l v).results = s.results := rfl
@[simp] theorem inst_setLease : (s.setLease l v).inst k = s.inst k := rfl

@[simp] theorem setPool_cfg : (s.setPool p).cfg = s.cfg := rfl
@[simp] theorem setPool_instCfgs : (s.setPool p).instCfgs = s.instCfgs := rfl
@[simp] theorem setPool_instCfg : (s.setPool p).instCfg k' = s.instCfg k' := rfl
@[simp] theorem setPool_leases : (s.setPool p).leases = s.leases := rfl
@[simp] theorem setPool_insts : (s.setPool p).insts = s.insts := rfl
@[simp] theorem setPool_diagLog : (s.setPool p).diagLog = s.diagLog := rfl
@[simp] theorem setPool_agenda : (s.setPool p).agenda = s.agenda := rfl
@[simp] theorem setPool_results : (s.setPool p).results = s.results := rfl
@[simp] theorem setPool_pool : (s.setPool p).pool = p := rfl
@[simp] theorem inst_setPool : (s.setPool p).inst k = s.inst k := rfl
@[simp] theorem lease_setPool : (s.setPool p).lease l' = s.lease l' := rfl

@[simp] theorem ret_cfg : (s.ret r).cfg = s.cfg := rfl
@[simp] theorem ret_instCfgs : (s.ret r).instCfgs = s.instCfgs := rfl
@[simp] theorem ret_instCfg : (s.ret r).instCfg k' = s.instCfg k' := rfl
@[simp] theorem ret_pool : (s.ret r).pool = s.pool := rfl
@[simp] theorem ret_leases : (s.ret r).leases = s.leases := rfl
@[simp] theorem ret_insts : (s.ret r).insts = s.insts := rfl
@[simp] theorem ret_diagLog : (s.ret r).diagLog = s.diagLog := rfl
@[simp] theorem ret_agenda : (s.ret r).agenda = s.agenda := rfl
@[simp] theorem ret_results : (s.ret r).results = s.results ++ [r] := rfl
@[simp] theorem inst_ret : (s.ret r).inst k = s.inst k := rfl
@[simp] theorem lease_ret : (s.ret r).lease l' = s.lease l' := rfl

@[simp] theorem diag_cfg : (s.diag d).cfg = s.cfg := rfl
@[simp] theorem diag_instCfgs : (s.diag d).instCfgs = s.instCfgs := rfl
@[simp] theorem diag_instCfg : (s.diag d).instCfg k' = s.instCfg k' := rfl
@[simp] theorem diag_pool : (s.diag d).pool = s.pool := rfl
@[simp] theorem diag_leases : (s.diag d).leases = s.leases := rfl
@[simp] theorem diag_insts : (s.diag d).insts = s.insts := rfl
@[simp] theorem diag_agenda : (s.diag d).agenda = s.agenda := rfl
@[simp] theorem diag_results : (s.diag d).results = s.results := rfl
@[simp] theorem diag_diagLog : (s.diag d).diagLog = s.diagLog ++ [d] := rfl
@[simp] theorem inst_diag : (s.diag d).inst k = s.inst k := rfl
@[simp] theorem lease_diag : (s.diag d).lease l' = s.lease l' := rfl

@[simp] theorem instCfg_agenda (a : List Event) : State.instCfg { s with agenda := a } k = s.instCfg k := rfl
@[simp] theorem inst_agenda (a : List Event) : State.inst { s with agenda := a } k = s.inst k := rfl
@[simp] theorem lease_agenda (a : List Event) : State.lease { s with agenda := a } l = s.lease l := rfl

/-- An instance reads as it was written. -/
@[simp] theorem inst_setInst_same : (s.setInst k i).inst k = i := tableFind_put_same _ _ _ _

/-- Writing one instance leaves every other. -/
theorem inst_setInst_other (h : k' ≠ k) : (s.setInst k i).inst k' = s.inst k' := tableFind_put_other _ _ _ h _

theorem inst_setInst : (s.setInst k i).inst k' = if k' = k then i else s.inst k' := by
  split
  · next h => rw [h, inst_setInst_same]
  · next h => exact inst_setInst_other s k k' i h

/-- The later of two writes of one instance stands. -/
@[simp] theorem setInst_setInst (j : Instance) : (s.setInst k i).setInst k j = s.setInst k j := by
  simp only [State.setInst]
  exact congrArg (fun t => { s with insts := t }) (tablePut_put (Instance.initial (s.instCfg k)) j i k s.insts)

/-- A lease reads as it was written. -/
@[simp] theorem lease_setLease_same : (s.setLease l v).lease l = v := tableFind_put_same _ _ _ _

/-- Writing one lease leaves every other. -/
theorem lease_setLease_other (h : l' ≠ l) : (s.setLease l v).lease l' = s.lease l' := tableFind_put_other _ _ _ h _

theorem lease_setLease : (s.setLease l v).lease l' = if l' = l then v else s.lease l' := by
  split
  · next h => rw [h, lease_setLease_same]
  · next h => exact lease_setLease_other s l l' v h

/-- Writing the pool and writing an instance commute, as writing the results does with both. -/
theorem setPool_setInst : (s.setInst k i).setPool p = (s.setPool p).setInst k i := rfl
theorem setPool_setPool (q : List Bool) : (s.setPool p).setPool q = s.setPool q := rfl
theorem setInst_ret : (s.ret r).setInst k i = (s.setInst k i).ret r := rfl

end Sys2Proof.Laws
end

