-- ==== Sys2Proof/Laws/Pool.lean ====
section
/-! SUPPORT. What the pool and lease operations do, once each (rules R170 to R184). -/

namespace Sys2Proof.Laws
open Sys2Proof.Machine

/-! ### Reading an entry -/

theorem poolTaken_eq_true {p : List Bool} {i : Nat} : poolTaken p i = true ↔ p[i]? = some true := by
  unfold poolTaken
  rw [List.getD_eq_getElem?_getD]
  cases p[i]? <;> simp

theorem poolTaken_lt {p : List Bool} {i : Nat} (h : poolTaken p i = true) : i < p.length := by
  rw [poolTaken_eq_true] at h
  exact (List.getElem?_eq_some_iff.mp h).1

theorem poolTaken_set (p : List Bool) (i j : Nat) (b : Bool) :
    poolTaken (p.set i b) j = if i = j ∧ j < p.length then b else poolTaken p j := by
  simp only [poolTaken, List.getD_eq_getElem?_getD, List.getElem?_set]
  by_cases h : i = j
  · subst h
    by_cases hl : i < p.length <;> simp [hl]
  · simp [h]

theorem free_iff {p : List Bool} {i : Nat} (h : i < p.length) : p[i]? = some false ↔ poolTaken p i = false := by
  simp [poolTaken, List.getD_eq_getElem?_getD, List.getElem?_eq_getElem h]

/-! ### The scan -/

theorem scanFree_some {f l j : Nat} (p : List Bool) (i : Nat) (h : scanFree f l p i = some j) :
    i ≤ j ∧ f ≤ j ∧ j ≤ l ∧ p[j - i]? = some false ∧ ∀ m, i ≤ m → f ≤ m → m < j → p[m - i]? = some true := by
  induction p generalizing i with
  | nil => simp [scanFree] at h
  | cons b rest ih =>
    unfold scanFree at h
    split at h
    · next hb =>
      obtain rfl : i = j := by simpa using h
      refine ⟨Nat.le_refl _, hb.1, hb.2.1, by simp [hb.2.2], fun m h1 _ h2 => by omega⟩
    · next hb =>
      obtain ⟨h1, h2, h3, h4, h5⟩ := ih (i + 1) h
      refine ⟨by omega, h2, h3, ?_, fun m hm hf hj => ?_⟩
      · have : j - i = (j - (i + 1)) + 1 := by omega
        rw [this]; simpa using h4
      · by_cases hmi : m = i
        · subst hmi
          have : b = true := by
            cases b
            · exact absurd ⟨hf, by omega, rfl⟩ hb
            · rfl
          simp [this]
        · have : m - i = (m - (i + 1)) + 1 := by omega
          rw [this]; simpa using h5 m (by omega) hf hj

theorem scanFree_none {f l : Nat} (p : List Bool) (i : Nat) (h : scanFree f l p i = none) :
    ∀ m, i ≤ m → f ≤ m → m ≤ l → m - i < p.length → p[m - i]? = some true := by
  induction p generalizing i with
  | nil => intro m _ _ _ hl; simp at hl
  | cons b rest ih =>
    unfold scanFree at h
    split at h
    · simp at h
    · next hb =>
      intro m hm hf hl hlen
      by_cases hmi : m = i
      · subst hmi
        have : b = true := by
          cases b
          · exact absurd ⟨hf, hl, rfl⟩ hb
          · rfl
        simp [this]
      · have : m - i = (m - (i + 1)) + 1 := by omega
        rw [this]
        simpa using ih (i + 1) h m (by omega) hf hl (by simp at hlen; omega)

/-- The scan finds the lowest Free index of the range, if there is one. -/
theorem scanFree_eq_some {f l j : Nat} {p : List Bool} :
    scanFree f l p 0 = some j ↔
      f ≤ j ∧ j ≤ l ∧ p[j]? = some false ∧ ∀ m, f ≤ m → m < j → p[m]? = some true := by
  constructor
  · intro h
    obtain ⟨-, h1, h2, h3, h4⟩ := scanFree_some p 0 h
    exact ⟨h1, h2, by simpa using h3, fun m hf hj => by simpa using h4 m (Nat.zero_le _) hf hj⟩
  · rintro ⟨h1, h2, h3, h4⟩
    cases hs : scanFree f l p 0 with
    | none =>
      have := scanFree_none p 0 hs j (Nat.zero_le _) h1 h2 (by simpa using (List.getElem?_eq_some_iff.mp h3).1)
      simp [h3] at this
    | some i =>
      obtain ⟨-, g1, g2, g3, g4⟩ := scanFree_some p 0 hs
      rcases Nat.lt_trichotomy i j with hij | rfl | hij
      · have := h4 i g1 hij
        simp [this] at g3
      · rfl
      · have := g4 j (Nat.zero_le _) h1 hij
        simp [h3] at this

/-- The scan finds nothing exactly where every entry of the range inside the pool is Taken. -/
theorem scanFree_eq_none {f l : Nat} {p : List Bool} :
    scanFree f l p 0 = none ↔ ∀ m, f ≤ m → m ≤ l → m < p.length → p[m]? = some true := by
  constructor
  · intro h m hf hl hlen
    simpa using scanFree_none p 0 h m (Nat.zero_le _) hf hl (by simpa using hlen)
  · intro h
    cases hs : scanFree f l p 0 with
    | none => rfl
    | some i =>
      obtain ⟨h1, h2, h3, -⟩ := scanFree_eq_some.mp hs
      have := h i h1 h2 (List.getElem?_eq_some_iff.mp h3).1
      simp [h3] at this

/-! ### Acquire and release on the pool -/

/-- Everything an acquire can do: take the lowest Free index of the range, or find none and leave the pool. -/
theorem poolAcquire_cases (f l : Nat) (p : List Bool) :
    (∃ i, scanFree f l p 0 = some i ∧ poolAcquire f l p = (some i, p.set i true)) ∨
    (scanFree f l p 0 = none ∧ poolAcquire f l p = (none, p)) := by
  unfold poolAcquire
  cases scanFree f l p 0 <;> simp

theorem poolAcquire_length (f l : Nat) (p : List Bool) : (poolAcquire f l p).2.length = p.length := by
  rcases poolAcquire_cases f l p with ⟨i, -, h⟩ | ⟨-, h⟩ <;> simp [h]

/-- A release makes the entry Free; a Free or out-of-range index changes nothing, as writing it would. -/
theorem poolRelease_eq_set (i : Nat) (p : List Bool) : poolRelease i p = p.set i false := by
  unfold poolRelease
  split
  · rfl
  · next h =>
    by_cases hl : i < p.length
    · have hf : poolTaken p i = false := by simpa [hl] using h
      have := (free_iff hl).mpr hf
      rw [List.getElem?_eq_getElem hl] at this
      apply List.ext_getElem?
      intro n
      rw [List.getElem?_set]
      split
      · next hn => subst hn; simp [hl] at this ⊢; exact this
      · rfl
    · rw [List.set_eq_of_length_le (by omega)]

@[simp] theorem poolRelease_length (i : Nat) (p : List Bool) : (poolRelease i p).length = p.length := by
  simp [poolRelease_eq_set]

/-! ### Leases -/

/-- A release empties the lease and makes its entry Free; an empty lease changes nothing. -/
theorem leaseRelease_eq (l : Lease) (p : List Bool) :
    leaseRelease l p = ({ held := none }, match l.held with | some i => p.set i false | none => p) := by
  unfold leaseRelease
  cases h : l.held with
  | none => cases l; simp_all
  | some i => simp [poolRelease_eq_set]

@[simp] theorem leaseRelease_held (l : Lease) (p : List Bool) : (leaseRelease l p).1.held = none := by
  simp [leaseRelease_eq]

@[simp] theorem leaseRelease_length (l : Lease) (p : List Bool) : (leaseRelease l p).2.length = p.length := by
  rw [leaseRelease_eq]
  cases l.held <;> simp

/-- Everything a lease's acquire can do, over the pool its release leaves. -/
theorem leaseAcquire_cases (f l : Nat) (L : Lease) (p : List Bool) :
    (∃ i, scanFree f l (leaseRelease L p).2 0 = some i ∧
      leaseAcquire f l L p = { ok := true, lease := { held := some i }, pool := (leaseRelease L p).2.set i true }) ∨
    (scanFree f l (leaseRelease L p).2 0 = none ∧
      leaseAcquire f l L p = { ok := false, lease := { held := none }, pool := (leaseRelease L p).2 }) := by
  unfold leaseAcquire
  rcases poolAcquire_cases f l (leaseRelease L p).2 with ⟨i, h, e⟩ | ⟨h, e⟩
  · exact .inl ⟨i, h, by rw [e]⟩
  · exact .inr ⟨h, by rw [e]⟩

@[simp] theorem leaseAcquire_length (f l : Nat) (L : Lease) (p : List Bool) :
    (leaseAcquire f l L p).pool.length = p.length := by
  rcases leaseAcquire_cases f l L p with ⟨i, -, h⟩ | ⟨-, h⟩ <;> simp [h]

theorem leaseAcquire_ok (f l : Nat) (L : Lease) (p : List Bool) :
    (leaseAcquire f l L p).lease.held.isSome = (leaseAcquire f l L p).ok := by
  rcases leaseAcquire_cases f l L p with ⟨i, -, h⟩ | ⟨-, h⟩ <;> simp [h]

end Sys2Proof.Laws
end

