-- ==== Sys2Proof/Laws/Memory.lean ====
section
/-! SUPPORT. The canonical form of the pool and the tables, and that every operation over them keeps it. -/

namespace Sys2Proof.Laws
open Sys2Proof.Machine

theorem memory_wf_iff (s : State) :
    Memory.wf s = true ↔ s.pool.length = s.cfg.poolSize ∧ tableWf (fun _ => s.cfg) s.instCfgs = true ∧
      tableWf (fun k => Instance.initial (s.instCfg k)) s.insts = true ∧
      tableWf (fun _ => LeaseSlot.initial) s.leases = true := by
  simp [Memory.wf, and_assoc]

variable {s : State}

/-- The reset state of any configuration is canonical. -/
theorem wf_initial (c : Config) : Memory.wf (State.initial c) = true := by
  simp [memory_wf_iff, State.initial, tableWf]

/-- And so it is whatever configurations of their own the instances have. -/
theorem wf_initialWith (c : Config) (own : List (Nat × Config)) : Memory.wf (State.initialWith c own) = true := by
  have h : ∀ t, tableWf (fun _ => c) t = true →
      tableWf (fun _ => c) (own.foldl (fun t e => tablePut c e.1 e.2 t) t) = true := by
    induction own with
    | nil => exact fun _ h => h
    | cons e rest ih => exact fun t ht => ih _ (tableWf_put (fun _ => c) e.2 e.1 t ht)
  simp only [memory_wf_iff, State.initialWith, State.initial]
  exact ⟨by simp, h [] rfl, rfl, rfl⟩

theorem wf_setInst (k : InstId) (i : Instance) (h : Memory.wf s = true) : Memory.wf (s.setInst k i) = true := by
  rw [memory_wf_iff] at h ⊢
  exact ⟨h.1, h.2.1, tableWf_put (fun k => Instance.initial (s.instCfg k)) i k _ h.2.2.1, h.2.2.2⟩

theorem wf_setLease (l : LeaseId) (v : LeaseSlot) (h : Memory.wf s = true) : Memory.wf (s.setLease l v) = true := by
  rw [memory_wf_iff] at h ⊢
  exact ⟨h.1, h.2.1, h.2.2.1, tableWf_put (fun _ => LeaseSlot.initial) v l _ h.2.2.2⟩

theorem wf_setPool (p : List Bool) (hp : p.length = s.pool.length) (h : Memory.wf s = true) :
    Memory.wf (s.setPool p) = true := by
  rw [memory_wf_iff] at h ⊢
  exact ⟨hp.trans h.1, h.2⟩

theorem wf_ret (r : Result) (h : Memory.wf s = true) : Memory.wf (s.ret r) = true := h

theorem wf_diag (d : Diag) (h : Memory.wf s = true) : Memory.wf (s.diag d) = true := h

theorem wf_retDecoded (f : Option TelemetryFrame) (h : Memory.wf s = true) : Memory.wf (s.retDecoded f) = true := by
  cases f <;> exact h

theorem wf_agenda (a : List Event) (h : Memory.wf s = true) : Memory.wf { s with agenda := a } = true := h

/-- An acquire on the pool keeps the form. -/
theorem wf_poolAcquire (f l : Nat) (h : Memory.wf s = true) : Memory.wf (s.setPool (poolAcquire f l s.pool).2) = true :=
  wf_setPool _ (poolAcquire_length f l s.pool) h

/-- A release on the pool keeps the form. -/
theorem wf_poolRelease (i : Nat) (h : Memory.wf s = true) : Memory.wf (s.setPool (poolRelease i s.pool)) = true :=
  wf_setPool _ (poolRelease_length i s.pool) h

/-- A lease's acquire keeps the form. -/
theorem wf_leaseAcquire (f l : Nat) (L : Lease) (h : Memory.wf s = true) :
    Memory.wf (s.setPool (leaseAcquire f l L s.pool).pool) = true :=
  wf_setPool _ (leaseAcquire_length f l L s.pool) h

/-- A lease's release keeps the form. -/
theorem wf_leaseRelease (L : Lease) (h : Memory.wf s = true) : Memory.wf (s.setPool (leaseRelease L s.pool).2) = true :=
  wf_setPool _ (leaseRelease_length L s.pool) h

end Sys2Proof.Laws
end

