-- ==== Sys2Proof/Laws/PerInstr.lean ====
section
/-! SUPPORT. Decoding the encoding of a well-formed instruction gives it back, one lemma per constructor (rules R80 to R97). -/

namespace Sys2Proof.Laws

/-! ### Fields of a concatenation -/

/-- A slice of a word reads the bits it covers. -/
theorem field_eq {w n : Nat} (x : BitVec w) (start : Nat) (y : BitVec n)
    (h : ∀ i, i < n → x.getLsbD (start + i) = y.getLsbD i) : x.extractLsb' start n = y := by
  apply BitVec.eq_of_getLsbD_eq
  intro i hi
  simp [hi, h i hi]

theorem readWord_toNat {w : Nat} (x : BitVec w) : readWord w x.toNat = some x := by
  simp [readWord, x.isLt]

namespace RoundTrip

/-- What the family states of an instruction. -/
def Statement (i : Instr) : Prop := i.wf = true → Sys2Proof.decode (encode i) = .ok i

/-- The three fields of a frame built from them. -/
theorem frame_fields (value11 : U11) (t : Bit) (crc : U4) :
    (frameWord value11 t crc).extractLsb' 5 11 = value11 ∧ (frameWord value11 t crc).extractLsb' 4 1 = t ∧
    (frameWord value11 t crc).extractLsb' 0 4 = crc := by
  refine ⟨?_, ?_, ?_⟩ <;> refine field_eq _ _ _ fun i hi => ?_
  all_goals interval_cases i <;> simp [frameWord]

theorem dshotFrameThrottle (value11 : U11) (t : Bit) (crc : U4) : Statement (.dshotFrameThrottle value11 t crc) := by
  intro h
  obtain ⟨h1, h2, h3⟩ := frame_fields value11 t crc
  have hv : 48 ≤ value11.toNat := by simpa [Instr.wf] using h
  simp only [encode, decode, decodeFrame16, h1, h2, h3, if_pos hv]

theorem dshotFrameSpecial (code : BitVec 6) (t : Bit) (crc : U4) : Statement (.dshotFrameSpecial code t crc) := by
  intro h
  obtain ⟨h1, h2, h3⟩ := frame_fields (code.setWidth 11) t crc
  have h4 : (frameWord (code.setWidth 11) t crc).extractLsb' 5 6 = code :=
    field_eq _ _ _ fun i hi => by interval_cases i <;> simp [frameWord]
  have hv : ¬ 48 ≤ (code.setWidth 11).toNat := by
    have : code.toNat ≤ 47 := by simpa [Instr.wf] using h
    rw [BitVec.toNat_setWidth]
    omega
  simp only [encode, decode, decodeFrame16, h1, h2, h3, h4, if_neg hv]

/-- The four fields of a reply value built from them. -/
theorem reply_fields (top : BitVec 3) (b : Bit) (raw : U8) (crc : U4) :
    (replyWord top b raw crc).extractLsb' 13 3 = top ∧ (replyWord top b raw crc).extractLsb' 12 1 = b ∧
    (replyWord top b raw crc).extractLsb' 4 8 = raw ∧ (replyWord top b raw crc).extractLsb' 0 4 = crc := by
  refine ⟨?_, ?_, ?_, ?_⟩ <;> refine field_eq _ _ _ fun i hi => ?_
  all_goals interval_cases i <;> simp [replyWord]

/-- A reply value is told by its top three bits and bit 12. -/
theorem decodeReply16_fields (top : BitVec 3) (b : Bit) (raw : U8) (crc : U4) :
    decodeReply16 (replyWord top b raw crc) =
      if b = 1#1 then .replyErpm top raw crc
      else if top = 1#3 then .replyEdtTemperature raw crc
      else if top = 2#3 then .replyEdtVoltage raw crc
      else if top = 3#3 then .replyEdtCurrent raw crc
      else .replyEdtOther top raw crc := by
  obtain ⟨h1, h2, h3, h4⟩ := reply_fields top b raw crc
  simp only [decodeReply16, h1, h2, h3, h4]

theorem replyErpm (e : BitVec 3) (m : U8) (crc : U4) : Statement (.replyErpm e m crc) := by
  intro _
  simp only [encode, decode, decodeReply16_fields, if_true]

theorem replyEdtTemperature (raw : U8) (crc : U4) : Statement (.replyEdtTemperature raw crc) := by
  intro _
  simp only [encode, decode, decodeReply16_fields]
  rfl

theorem replyEdtVoltage (raw : U8) (crc : U4) : Statement (.replyEdtVoltage raw crc) := by
  intro _
  simp only [encode, decode, decodeReply16_fields]
  rfl

theorem replyEdtCurrent (raw : U8) (crc : U4) : Statement (.replyEdtCurrent raw crc) := by
  intro _
  simp only [encode, decode, decodeReply16_fields]
  rfl

theorem replyEdtOther (ty : BitVec 3) (raw : U8) (crc : U4) : Statement (.replyEdtOther ty raw crc) := by
  intro h
  obtain ⟨h1, h2, h3⟩ : ty ≠ 1#3 ∧ ty ≠ 2#3 ∧ ty ≠ 3#3 := by simpa [Instr.wf] using h
  simp only [encode, decode, decodeReply16_fields, h1, h2, h3, if_false]
  rfl

theorem nrziWord (lead : Bit) (levels : U20) : Statement (.nrziWord lead levels) := by
  intro _
  have h1 : (Sys2Proof.nrziWord lead levels).extractLsb' 20 1 = lead :=
    field_eq _ _ _ fun i hi => by interval_cases i; simp [Sys2Proof.nrziWord]
  have h2 : (Sys2Proof.nrziWord lead levels).extractLsb' 0 20 = levels :=
    field_eq _ _ _ fun i hi => by interval_cases i <;> simp [Sys2Proof.nrziWord]
  simp only [encode, decode, decodeNrzi21, h1, h2]

theorem gcrNibble0 : Statement .gcrNibble0 := fun _ => rfl

theorem gcrNibble1 : Statement .gcrNibble1 := fun _ => rfl

theorem gcrNibble2 : Statement .gcrNibble2 := fun _ => rfl

theorem gcrNibble3 : Statement .gcrNibble3 := fun _ => rfl

theorem gcrNibble4 : Statement .gcrNibble4 := fun _ => rfl

theorem gcrNibble5 : Statement .gcrNibble5 := fun _ => rfl

theorem gcrNibble6 : Statement .gcrNibble6 := fun _ => rfl

theorem gcrNibble7 : Statement .gcrNibble7 := fun _ => rfl

theorem gcrNibble8 : Statement .gcrNibble8 := fun _ => rfl

theorem gcrNibble9 : Statement .gcrNibble9 := fun _ => rfl

theorem gcrNibbleA : Statement .gcrNibbleA := fun _ => rfl

theorem gcrNibbleB : Statement .gcrNibbleB := fun _ => rfl

theorem gcrNibbleC : Statement .gcrNibbleC := fun _ => rfl

theorem gcrNibbleD : Statement .gcrNibbleD := fun _ => rfl

theorem gcrNibbleE : Statement .gcrNibbleE := fun _ => rfl

theorem gcrNibbleF : Statement .gcrNibbleF := fun _ => rfl

theorem encodeThrottle (x : ThrottleInput) : Statement (.encodeThrottle x) := fun _ => rfl

theorem encodeSpecial (code : U8) : Statement (.encodeSpecial code) := by
  intro _
  simp [encode, Sys2Proof.decode, decodeOp, readOperation, readWord_toNat]

theorem crc4 (p : U12) : Statement (.crc4 p) := by
  intro _
  simp [encode, Sys2Proof.decode, decodeOp, readOperation, readWord_toNat]

theorem buildFrame (value11 : U11) (t : Bit) : Statement (.buildFrame value11 t) := by
  intro _
  simp [encode, Sys2Proof.decode, decodeOp, readOperation, readWord_toNat]

theorem decodeAndValidate (frame16 : U16) : Statement (.decodeAndValidate frame16) := by
  intro _
  simp [encode, Sys2Proof.decode, decodeOp, readOperation, readWord_toNat]

theorem frameToPulses (frame16 : U16) : Statement (.frameToPulses frame16) := by
  intro _
  simp [encode, Sys2Proof.decode, decodeOp, readOperation, readWord_toNat]

theorem runsToBits (highRuns lowRuns : List Nat) (replyBitTicks : Nat) : Statement (.runsToBits highRuns lowRuns replyBitTicks) := fun _ => rfl

theorem decode (highRuns lowRuns : List Nat) (replyBitTicks : Nat) : Statement (.decode highRuns lowRuns replyBitTicks) := fun _ => rfl

theorem allocAcquireAny : Statement .allocAcquireAny := fun _ => rfl

theorem allocAcquireInRange (first last : Nat) : Statement (.allocAcquireInRange first last) := fun _ => rfl

theorem allocRelease (index : Nat) : Statement (.allocRelease index) := fun _ => rfl

theorem allocCountFree : Statement .allocCountFree := fun _ => rfl

theorem allocIsTaken (index : Nat) : Statement (.allocIsTaken index) := fun _ => rfl

theorem leaseAcquireAny (lease : LeaseId) : Statement (.leaseAcquireAny lease) := fun _ => rfl

theorem leaseAcquireInRange (lease : LeaseId) (first last : Nat) : Statement (.leaseAcquireInRange lease first last) := fun _ => rfl

theorem leaseRelease (lease : LeaseId) : Statement (.leaseRelease lease) := fun _ => rfl

theorem leaseDestroy (lease : LeaseId) : Statement (.leaseDestroy lease) := fun _ => rfl

theorem schedBegin (inst : InstId) : Statement (.schedBegin inst) := fun _ => rfl

theorem schedArm (inst : InstId) (on : Bool) : Statement (.schedArm inst on) := fun _ => rfl

theorem schedWriteNormalized (inst : InstId) (x : ThrottleInput) : Statement (.schedWriteNormalized inst x) := fun _ => rfl

theorem schedSendSpecial (inst : InstId) (code : U8) : Statement (.schedSendSpecial inst code) := by
  intro _
  simp [encode, Sys2Proof.decode, decodeOp, readOperation, readWord_toNat]

theorem schedReadTelemetry (inst : InstId) : Statement (.schedReadTelemetry inst) := fun _ => rfl

theorem schedEnd (inst : InstId) : Statement (.schedEnd inst) := fun _ => rfl

theorem leaseDisown (lease : LeaseId) : Statement (.leaseDisown lease) := fun _ => rfl

end RoundTrip

end Sys2Proof.Laws
end

