-- ==== Sys2Proof/Laws/Scheduler.lean ====
section
/-! SUPPORT. What the internal procedures of the scheduler do to an instance, once each (rules R191 to R199). -/

namespace Sys2Proof.Laws
open Sys2Proof.Machine

variable (c : Config) (k : InstId) (i : Instance)

/-- The engine's next word on a transmission. -/
def sentAnswer : Bool := (nextAnswer (Config.freeTransmit k i.env.draws) i.env.transmit).1

/-- What `sendFrame` does: the pulses go to the engine; a success is logged as a frame sent, a failure is noted; nothing else
of the instance changes but its environment. -/
theorem sendFrame_eq (frame : U16) :
    Instance.sendFrame c k frame i =
      (sentAnswer k i,
        { i with
          txLog := if sentAnswer k i then i.txLog ++ [frame] else i.txLog
          diagLog := if sentAnswer k i then i.diagLog else i.diagLog ++ [.transmitFailed]
          envLog := i.envLog ++ [.transmit (frameToPulses c frame) (sentAnswer k i)]
          env := ((Instance.transmit k (frameToPulses c frame) i).2).env }) := by
  unfold Instance.sendFrame sentAnswer Instance.transmit Instance.logCall
  split
  · next j h =>
    simp only [Prod.mk.injEq] at h
    obtain ⟨h1, rfl⟩ := h
    simp [h1]
  · next j h =>
    simp only [Prod.mk.injEq] at h
    obtain ⟨h1, rfl⟩ := h
    simp [h1, Instance.diag]

/-- The receive window: what the engine captured is decoded after the window is closed (rule R198). -/
theorem receiveWindow_eq :
    Instance.receiveWindow c k i =
      Instance.takeCapture c (Instance.pollCapture k (i.logCall .beginReceiveWindow)).1
        ((Instance.pollCapture k (i.logCall .beginReceiveWindow)).2.logCall .endReceiveWindow) := rfl

/-- A capture changes the cache and the failure notes only. -/
theorem takeCapture_eq (sample : Option RunSample) :
    Instance.takeCapture c sample i =
      { i with
        cache := (Instance.takeCapture c sample i).cache
        diagLog := (Instance.takeCapture c sample i).diagLog } := by
  unfold Instance.takeCapture
  split
  · rfl
  · split <;> rfl

/-- The receive window changes the cache, the failure notes and the environment only. -/
theorem receiveWindow_frame :
    Instance.receiveWindow c k i =
      { i with
        cache := (Instance.receiveWindow c k i).cache
        diagLog := (Instance.receiveWindow c k i).diagLog
        envLog := (Instance.receiveWindow c k i).envLog
        env := (Instance.receiveWindow c k i).env } := by
  rw [receiveWindow_eq, takeCapture_eq]
  rfl

/-- A scheduled transmission: the counter steps, the frame goes out, and a sent request with a receive lease opens the
window (rule R196). -/
theorem scheduledTransmit_eq (v : U11) :
    Instance.scheduledTransmit c k v i =
      (let j := { i with counter := (cadence i.divisor i.counter).2 }
       let g := (Instance.sendFrame c k (buildFrame v (cadence i.divisor i.counter).1) j).2
       (sentAnswer k i,
        if sentAnswer k i = true ∧ (cadence i.divisor i.counter).1 = 1#1 ∧ i.rx.held ≠ none then
          Instance.receiveWindow c k g else g)) := by
  unfold Instance.scheduledTransmit
  dsimp only
  rw [sendFrame_eq]
  have : sentAnswer k { i with counter := (cadence i.divisor i.counter).2 } = sentAnswer k i := rfl
  rw [this]
  cases sentAnswer k i <;> simp

/-- A scheduled transmission changes the counter, the cache, the logs and the environment only. -/
theorem scheduledTransmit_frame (v : U11) :
    (Instance.scheduledTransmit c k v i).2 =
      { i with
        counter := (cadence i.divisor i.counter).2
        cache := (Instance.scheduledTransmit c k v i).2.cache
        txLog := (Instance.scheduledTransmit c k v i).2.txLog
        diagLog := (Instance.scheduledTransmit c k v i).2.diagLog
        envLog := (Instance.scheduledTransmit c k v i).2.envLog
        env := (Instance.scheduledTransmit c k v i).2.env } := by
  rw [scheduledTransmit_eq]
  dsimp only
  rw [sendFrame_eq]
  split
  · rw [receiveWindow_frame]
  · rfl

/-- The forced transmission changes the logs and the environment only. -/
theorem forcedTransmit_frame :
    Instance.forcedTransmit c k i =
      { i with
        txLog := (Instance.forcedTransmit c k i).txLog
        diagLog := (Instance.forcedTransmit c k i).diagLog
        envLog := (Instance.forcedTransmit c k i).envLog
        env := (Instance.forcedTransmit c k i).env } := by
  unfold Instance.forcedTransmit
  rw [sendFrame_eq]

/-- A gated transmission changes the gate, the counter, the cache, the logs and the environment only. -/
theorem gatedTransmit_frame (v : U11) :
    (Instance.gatedTransmit c k v i).2 =
      { i with
        nextDue := (Instance.gatedTransmit c k v i).2.nextDue
        counter := (Instance.gatedTransmit c k v i).2.counter
        cache := (Instance.gatedTransmit c k v i).2.cache
        txLog := (Instance.gatedTransmit c k v i).2.txLog
        diagLog := (Instance.gatedTransmit c k v i).2.diagLog
        envLog := (Instance.gatedTransmit c k v i).2.envLog
        env := (Instance.gatedTransmit c k v i).2.env } := by
  unfold Instance.gatedTransmit Instance.rateGate Instance.now Instance.logCall
  dsimp only
  split
  · next h =>
    split at h
    · simp only [Prod.mk.injEq] at h; obtain ⟨-, rfl⟩ := h; rfl
    · simp at h
  · next h =>
    split at h
    · simp at h
    · simp only [Prod.mk.injEq] at h
      obtain ⟨-, rfl⟩ := h
      rw [scheduledTransmit_frame]

end Sys2Proof.Laws
end

