-- ==== Sys2Proof/Laws/Step.lean ====
section
/-! SUPPORT. Everything a step can do, said once, and what the operations on one lease or one instance do when they go on. -/

namespace Sys2Proof.Laws
open Sys2Proof.Machine

variable {s t : State}

/-- A step that goes on is the first event of the agenda, or nothing where no host issues anything. -/
theorem step_next (h : step s = .next t) :
    s.configured = true ∧
      ((s.agenda = [] ∧ t = s) ∨
        ∃ e rest, s.agenda = e :: rest ∧ runEvent e { s with agenda := rest } = .next t) := by
  unfold step at h
  split at h
  · next hc =>
    refine ⟨hc, ?_⟩
    unfold runAgenda at h
    split at h
    · next ha => exact .inl ⟨ha, by simpa using h.symm⟩
    · next e rest ha => exact .inr ⟨e, rest, ha, h⟩
  · exact absurd h (by simp)

/-- Looking a code up is the return of the table's entry, and nothing else. -/
@[simp] theorem lookUpCode_eq (code : U5) (s : State) :
    lookUpCode code s = s.ret (.nibble (gcrLookup s.cfg code)) := rfl

/-- A request that is no instruction goes on only as the lookup of a code without a row. -/
theorem rejectRequest_next {why : Reject} (h : rejectRequest why s = .next t) :
    ∃ code, why = .noGcrRow code ∧ t = lookUpCode code s := by
  cases why with
  | noGcrRow code => exact ⟨code, rfl, by simpa [rejectRequest, eq_comm] using h⟩
  | selectorUnassigned sel => exact absurd h (by simp [rejectRequest])
  | operands sel => exact absurd h (by simp [rejectRequest])

/-- An event that goes on runs an instruction, leaves a `begin` or an `end` in flight, resumes one, or looks up a code without a
row. -/
theorem runEvent_next {e : Event} (h : runEvent e s = .next t) :
    (∃ i, e.instr = some i ∧ exec i s = .next t) ∨
    (∃ k, e.instr = some (.schedBegin k) ∧ startBegin k s = .next t) ∨
    (∃ k, e.instr = some (.schedEnd k) ∧ startEnd k s = .next t) ∨
    (∃ k, e = .resume k ∧ t = resumeInst k s) ∨
    (∃ code, e.instr = none ∧ (∀ k, e ≠ .resume k) ∧ t = lookUpCode code s) := by
  cases e with
  | run r =>
    simp only [runEvent, runRequest] at h
    split at h
    · next why hd =>
      obtain ⟨code, -, ht⟩ := rejectRequest_next h
      exact .inr (.inr (.inr (.inr ⟨code, by simp [Event.instr, hd, Except.toOption], by simp, ht⟩)))
    · next i hd => exact .inl ⟨i, by simp [Event.instr, hd, Except.toOption], h⟩
  | start r =>
    simp only [runEvent, startRequest] at h
    split at h
    · next why hd =>
      obtain ⟨code, -, ht⟩ := rejectRequest_next h
      exact .inr (.inr (.inr (.inr ⟨code, by simp [Event.instr, hd, Except.toOption], by simp, ht⟩)))
    · next k hd => exact .inr (.inl ⟨k, by simp [Event.instr, hd, Except.toOption], h⟩)
    · next k hd => exact .inr (.inr (.inl ⟨k, by simp [Event.instr, hd, Except.toOption], h⟩))
    · next i _ _ hd => exact .inl ⟨i, by simp [Event.instr, hd, Except.toOption], h⟩
  | resume k => exact .inr (.inr (.inr (.inl ⟨k, rfl, by simpa [runEvent] using h.symm⟩)))

/-- An operation on a lease goes on exactly where the lease's life has not ended. -/
theorem onLease_next {l : LeaseId} {f : LeaseSlot → State} :
    onLease l s f = .next t ↔ (s.lease l).destroyed = false ∧ t = f (s.lease l) := by
  unfold onLease
  dsimp only
  cases (s.lease l).destroyed <;> simp [eq_comm]

/-- An operation on an instance goes on exactly where the instance has none in flight. -/
theorem onInstance_next {k : InstId} {f : Instance → Result × Instance} :
    onInstance k s f = .next t ↔
      (s.inst k).busy = none ∧ t = (s.setInst k (f (s.inst k)).2).ret (f (s.inst k)).1 := by
  unfold onInstance
  dsimp only
  cases (s.inst k).busy <;> simp [eq_comm]

/-- `begin` goes on exactly where nothing is in flight and the instance is not initialized. -/
theorem execSchedBegin_next {k : InstId} :
    execSchedBegin k s = .next t ↔
      (s.inst k).busy = none ∧ (s.inst k).initialized = false ∧ t = beginRun k s := by
  unfold execSchedBegin
  cases (s.inst k).busy with
  | some p => simp
  | none => cases (s.inst k).initialized <;> simp [eq_comm]

/-- `end` goes on exactly where nothing is in flight. -/
theorem execSchedEnd_next {k : InstId} :
    execSchedEnd k s = .next t ↔ (s.inst k).busy = none ∧ t = endRun k s := by
  unfold execSchedEnd
  cases (s.inst k).busy <;> simp [eq_comm]

end Sys2Proof.Laws
end

