-- ==== Sys2Proof/Tests/Slice0.lean ====
section
/-! SUPPORT. The model's own tests: ill-formed terms, the spec's words decoded, one-step vectors of spec/95_test_vectors.md (each
names its table row or program step), and a witness for the hypotheses of every obligation that has some. -/

open Sys2Proof Sys2Proof.Machine

namespace Tests

/-! ## Small states -/

/-- The configuration of program P2: four channels, BIDIR, divisor 2. -/
def four : Config := { defaultConfig with poolSize := 4, txRange := (0, 3), rxRange := (0, 3), telemetryDivisor := 2 }

/-- Four channels, the pool as given, everything else at reset. -/
def pooled (p : List Bool) : State := (State.initial four).setPool p

/-- Lease 0 holds what is given. -/
def leasing (p : List Bool) (held : Option Nat) : State := (pooled p).setLease 0 { LeaseSlot.initial with lease := { held := held } }

/-- Lease 0 destroyed. -/
def destroyed : State := (State.initial four).setLease 0 { LeaseSlot.initial with destroyed := true }

/-- Instance 0 as given, on a pool as given. -/
def having (p : List Bool) (i : Instance) : State := (pooled p).setInst 0 i

/-- An idle instance with what its environment will answer. -/
def idle (e : Env) : Instance := { Instance.initial four with env := e }

/-- What an environment answers: the microseconds between clock readings, and the engine's answers. -/
def foreseen (clock : List Nat) (configure transmit : List Bool) (capture : List (Option RunSample)) : Env :=
  { Env.initial with clock := clock, configure := configure, transmit := transmit, capture := capture }

/-- An initialized instance with indices 0 and 1, at a link, a due time and a counter. -/
def running (link : Link) (due counter : Nat) (e : Env) : Instance :=
  { idle e with
    link := link, initialized := true, tx := { held := some 0 }, rx := { held := some 1 }, nextDue := due, counter := counter }

/-- The pool while instance 0 runs. -/
def twoTaken : List Bool := [true, true, false, false]

/-- A state whose next step takes one event. -/
def upon (e : Event) (s : State) : State := { s with agenda := [e] }

/-- The next state of an outcome that has one. -/
def next? (o : Host.Outcome State Fault Refusal) : Option State :=
  match o with
  | .next t => some t
  | .fault _ => none
  | .refused _ => none

/-- The last result an instruction returns. -/
def result? (i : Instr) (s : State) : Option Result := (next? (exec i s)).bind fun t => t.results.getLast?

/-- The capture of vector RV1. -/
def rv1 : RunSample := { highRuns := [102, 51, 51, 102, 51, 51], lowRuns := [102, 102, 102, 102, 102, 102] }

/-- The capture of vector RV13. -/
def rv13 : RunSample := { highRuns := [102, 51, 51, 102, 51, 51, 51], lowRuns := [102, 102, 102, 102, 102, 51] }

/-- The frame of vector RV1. -/
def rv1Frame : TelemetryFrame := { kind := .erpm, payload12 := 0x565, crc4 := 0x6, value := 42016 }

/-! ## WellFormed: a term each check refuses (rules R83, R91) -/

theorem test_wf_throttle_below_48 : (Instr.dshotFrameThrottle 47 0 0).wf = false := by decide
theorem test_wf_special_above_47 : (Instr.dshotFrameSpecial 48 0 0).wf = false := by decide
theorem test_wf_other_of_type_2 : (Instr.replyEdtOther 1 0 0).wf = false := by decide
theorem test_wf_other_of_type_4 : (Instr.replyEdtOther 2 0 0).wf = false := by decide
theorem test_wf_other_of_type_6 : (Instr.replyEdtOther 3 0 0).wf = false := by decide

/-! ## Decoding: every constructor, from words written out bit by bit (opcode table, rules R81, R87, R90 to R92, R96) -/

theorem test_decode_frames :
    decode (.frame16 0b10000010110_0_0110) = .ok (.dshotFrameThrottle 1046 0 6) ∧
    decode (.frame16 0b00000_010100_1_1011) = .ok (.dshotFrameSpecial 20 1 0xB) := by decide

theorem test_decode_frame_boundary :
    decode (.frame16 0b00000110000_1_0111) = .ok (.dshotFrameThrottle 48 1 7) ∧
    decode (.frame16 0b00000_101111_0_1011) = .ok (.dshotFrameSpecial 47 0 0xB) := by decide

theorem test_decode_replies :
    decode (.reply16 0b011_1_11111111_0111) = .ok (.replyErpm 3 0xFF 7) ∧
    decode (.reply16 0b0010_00100101_0101) = .ok (.replyEdtTemperature 0x25 5) ∧
    decode (.reply16 0b0100_01000010_0010) = .ok (.replyEdtVoltage 0x42 2) ∧
    decode (.reply16 0b0110_00001100_1010) = .ok (.replyEdtCurrent 0x0C 0xA) ∧
    decode (.reply16 0b100_0_10101010_1000) = .ok (.replyEdtOther 4 0xAA 8) := by decide

theorem test_decode_nrzi : decode (.nrzi21 0b1_00110110110011011011) = .ok (.nrziWord 1 0x36CDB) := by decide

theorem test_decode_gcr :
    decode (.gcr5 0b11001) = .ok .gcrNibble0 ∧ decode (.gcr5 0b11011) = .ok .gcrNibble1 ∧
    decode (.gcr5 0b10010) = .ok .gcrNibble2 ∧ decode (.gcr5 0b10011) = .ok .gcrNibble3 ∧
    decode (.gcr5 0b11101) = .ok .gcrNibble4 ∧ decode (.gcr5 0b10101) = .ok .gcrNibble5 ∧
    decode (.gcr5 0b10110) = .ok .gcrNibble6 ∧ decode (.gcr5 0b10111) = .ok .gcrNibble7 ∧
    decode (.gcr5 0b11010) = .ok .gcrNibble8 ∧ decode (.gcr5 0b01001) = .ok .gcrNibble9 ∧
    decode (.gcr5 0b01010) = .ok .gcrNibbleA ∧ decode (.gcr5 0b01011) = .ok .gcrNibbleB ∧
    decode (.gcr5 0b11110) = .ok .gcrNibbleC ∧ decode (.gcr5 0b01101) = .ok .gcrNibbleD ∧
    decode (.gcr5 0b01110) = .ok .gcrNibbleE ∧ decode (.gcr5 0b01111) = .ok .gcrNibbleF := by decide

theorem test_decode_pure_operations :
    decode (.op 0b00000000 [.throttle .posInf]) = .ok (.encodeThrottle .posInf) ∧
    decode (.op 0b00000001 [.num 200]) = .ok (.encodeSpecial 200) ∧
    decode (.op 0b00000010 [.num 0x82C]) = .ok (.crc4 0x82C) ∧
    decode (.op 0b00000011 [.num 1046, .num 1]) = .ok (.buildFrame 1046 1) ∧
    decode (.op 0b00000100 [.num 0x82C6]) = .ok (.decodeAndValidate 0x82C6) ∧
    decode (.op 0b00000101 [.num 0x82C6]) = .ok (.frameToPulses 0x82C6) ∧
    decode (.op 0b00000110 [.runs [1, 2], .runs [3], .num 51]) = .ok (.runsToBits [1, 2] [3] 51) ∧
    decode (.op 0b00000111 [.runs [1, 2], .runs [3], .num 51]) = .ok (.decode [1, 2] [3] 51) := by decide

theorem test_decode_pool_and_lease_operations :
    decode (.op 0b00001000 []) = .ok .allocAcquireAny ∧
    decode (.op 0b00001001 [.num 2, .num 3]) = .ok (.allocAcquireInRange 2 3) ∧
    decode (.op 0b00001010 [.num 9]) = .ok (.allocRelease 9) ∧
    decode (.op 0b00001011 []) = .ok .allocCountFree ∧
    decode (.op 0b00001100 [.num 7]) = .ok (.allocIsTaken 7) ∧
    decode (.op 0b00001101 [.num 5]) = .ok (.leaseAcquireAny 5) ∧
    decode (.op 0b00001110 [.num 5, .num 2, .num 3]) = .ok (.leaseAcquireInRange 5 2 3) ∧
    decode (.op 0b00001111 [.num 5]) = .ok (.leaseRelease 5) ∧
    decode (.op 0b00010000 [.num 5]) = .ok (.leaseDestroy 5) ∧
    decode (.op 0b00010111 [.num 5]) = .ok (.leaseDisown 5) := by decide

theorem test_decode_scheduler_operations :
    decode (.op 0b00010001 [.num 4]) = .ok (.schedBegin 4) ∧
    decode (.op 0b00010010 [.num 4, .flag true]) = .ok (.schedArm 4 true) ∧
    decode (.op 0b00010011 [.num 4, .throttle .nan]) = .ok (.schedWriteNormalized 4 .nan) ∧
    decode (.op 0b00010100 [.num 4, .num 255]) = .ok (.schedSendSpecial 4 255) ∧
    decode (.op 0b00010101 [.num 4]) = .ok (.schedReadTelemetry 4) ∧
    decode (.op 0b00010110 [.num 4]) = .ok (.schedEnd 4) := by decide

/-- The sixteen codes invalid in rule R92's table have no row. -/
theorem test_decode_invalid_gcr :
    ([0, 1, 2, 3, 4, 5, 6, 7, 8, 0x0C, 0x10, 0x11, 0x14, 0x18, 0x1C, 0x1F] : List U5).all
      (fun c => decode (.gcr5 c) == .error (.noGcrRow c)) = true := by decide

/-- Selectors 24 to 31 and those outside `000sssss` (rule R96). -/
theorem test_decode_unassigned_selectors :
    ([24, 25, 26, 27, 28, 29, 30, 31, 32, 255] : List U8).all
      (fun c => decode (.op c []) == .error (.selectorUnassigned c)) = true := by decide

/-- Arguments that are not the operation's: too few, and a code that is no u8. -/
theorem test_decode_wrong_arguments :
    decode (.op 9 [.num 2]) = .error (.operands 9) ∧ decode (.op 1 [.num 256]) = .error (.operands 1) := by decide

/-- Words of the opcode table: a frame with its CRC, each reply pattern, an NRZI word, a GCR code, a selector. -/
theorem test_decodeTableWord :
    decodeTableWord 16 0x82C6 = some (.dshotFrameThrottle 1046 0 6) ∧ decodeTableWord 16 0x1000 = some (.replyErpm 0 0 0) ∧
    decodeTableWord 24 0x0C9324 = some (.nrziWord 0 0xC9324) ∧ decodeTableWord 8 0x19 = some .gcrNibble0 ∧
    decodeTableWord 8 0x11 = some (.schedBegin 0) ∧ decodeTableWord 8 0x1C = none := by decide

/-! ## One step, by family -/

/-- 0x0606 is frame (48, 0) (section 2.1); with a wrong CRC the word is read as nothing (R114). -/
theorem test_frame_rows :
    result? (.dshotFrameThrottle 48 0 6) State.reset = some (.command (some (.throttle 48 0))) ∧
    result? (.dshotFrameSpecial 20 0 0xA) State.reset = some (.command (some (.special 20 0))) ∧
    result? (.dshotFrameThrottle 48 0 7) State.reset = some (.command none) := by decide

/-- Vectors RV1, RV7, RV8, RV9, RV10 from their 16-bit values on. -/
theorem test_reply_rows :
    result? (.replyErpm 2 0x65 6) State.reset = some (.telemetry (some rv1Frame)) ∧
    result? (.replyEdtTemperature 0x25 5) State.reset =
      some (.telemetry (some { kind := .edtTemperature, payload12 := 0x225, crc4 := 5, value := 37 })) ∧
    result? (.replyEdtVoltage 0x42 2) State.reset =
      some (.telemetry (some { kind := .edtVoltage, payload12 := 0x442, crc4 := 2, value := 66 })) ∧
    result? (.replyEdtCurrent 0x0C 0xA) State.reset =
      some (.telemetry (some { kind := .edtCurrent, payload12 := 0x60C, crc4 := 0xA, value := 12 })) ∧
    result? (.replyEdtOther 4 0xAA 8) State.reset =
      some (.telemetry (some { kind := .edtOther, payload12 := 0x8AA, crc4 := 8, value := 170 })) := by decide

/-- A reply value with a wrong CRC: nothing, and DecodeInvalid noted (v16 0x5657 of RV13). -/
theorem test_reply_bad_crc :
    (next? (exec (.replyErpm 2 0x65 7) State.reset)).map (fun t => (t.results, t.diagLog)) =
      some ([.telemetry none], [.decodeInvalid]) := by decide

/-- Example of rule R151. -/
theorem test_nrzi_row : result? (.nrziWord 0 0xC9324) State.reset = some (.u20 0xADAB6) := by decide

/-- The default table, nibble to code (rule R92); code 0x15 in a table that leaves it out. -/
theorem test_gcr_rows :
    [Instr.gcrNibble0, .gcrNibble1, .gcrNibble2, .gcrNibble3, .gcrNibble4, .gcrNibble5, .gcrNibble6, .gcrNibble7, .gcrNibble8,
      .gcrNibble9, .gcrNibbleA, .gcrNibbleB, .gcrNibbleC, .gcrNibbleD, .gcrNibbleE, .gcrNibbleF].map
      (fun i => result? i State.reset) =
    ([0, 1, 2, 3, 4, 5, 6, 7, 8, 9, 0xA, 0xB, 0xC, 0xD, 0xE, 0xF] : List U4).map (fun n => some (.nibble (some n))) := by decide

/-- A five-bit code presented under a table. -/
def presented (code : U5) (table : List (Option U4)) : Option (List Result) :=
  (next? (step (upon (.run (.gcr5 code)) (State.initial { defaultConfig with gcrTable := table })))).map fun t => t.results

/-- Code 0x00 is invalid in the default table (rules R92, R94 (f)); in a table that has it for 0x0F's nibble it gives that
nibble, and 0x0F gives none. -/
theorem test_gcr_code_without_a_row :
    presented 0 defaultGcrTable = some [.nibble none] ∧
    presented 0 ((defaultGcrTable.set 0 (some 0xF)).set 0x0F none) = some [.nibble (some 0xF)] ∧
    presented 0x0F ((defaultGcrTable.set 0 (some 0xF)).set 0x0F none) = some [.nibble none] := by decide

theorem test_gcr_row_of_another_table :
    result? .gcrNibble5 (State.initial { defaultConfig with gcrTable := [] }) = some (.nibble none) := by decide

/-- Section 2.1: NaN, 1/3999, 1/3998 (a tie), 1/2 (a tie), 2. -/
theorem test_encode_throttle :
    [ThrottleInput.nan, .finite (1 / 3999), .finite (1 / 3998), .finite (1 / 2), .finite 2].map
      (fun x => result? (.encodeThrottle x) State.reset) =
    ([48, 48, 49, 1048, 2047] : List U11).map (fun v => some (.u11 v)) := by decide +kernel

/-- Section 2.1, offset 1999: every x gives 2047. -/
theorem test_encode_throttle_offset_1999 :
    [ThrottleInput.negInf, .finite 0, .finite (1 / 2), .posInf].map
      (fun x => result? (.encodeThrottle x) (State.initial { defaultConfig with idleOffset := 1999 })) =
    List.replicate 4 (some (.u11 2047)) := by decide +kernel

theorem test_encode_special :
    ([0, 20, 47, 48, 200, 255] : List U8).map (fun c => result? (.encodeSpecial c) State.reset) =
    ([0, 20, 47, 47, 47, 47] : List U11).map (fun v => some (.u11 v)) := by decide

theorem test_crc4 :
    ([0xFFF, 0x800, 0x080, 0x123, 0xABC, 0x82C, 0x061] : List U12).map (fun p => result? (.crc4 p) State.reset) =
    ([0xF, 0x8, 0x8, 0x0, 0xD, 0x6, 0x7] : List U4).map (fun v => some (.u4 v)) := by decide

theorem test_build_frame :
    result? (.buildFrame 1046 0) State.reset = some (.u16 0x82C6) ∧ result? (.buildFrame 2047 0) State.reset = some (.u16 0xFFEE) ∧
    result? (.buildFrame 0 1) State.reset = some (.u16 0x0011) := by decide

theorem test_decode_and_validate :
    result? (.decodeAndValidate 0x82C6) State.reset = some (.payload (some (0x82C, true))) ∧
    result? (.decodeAndValidate 0x82C7) State.reset = some (.payload none) := by decide

/-- The example of rule R131: T = 64. -/
theorem test_frame_to_pulses :
    result? (.frameToPulses 0x82C6) State.reset = some (.pulses
      [⟨48, 16⟩, ⟨24, 40⟩, ⟨24, 40⟩, ⟨24, 40⟩, ⟨24, 40⟩, ⟨24, 40⟩, ⟨48, 16⟩, ⟨24, 40⟩,
       ⟨48, 16⟩, ⟨48, 16⟩, ⟨24, 40⟩, ⟨24, 40⟩, ⟨24, 40⟩, ⟨48, 16⟩, ⟨48, 16⟩, ⟨24, 40⟩]) := by decide

/-- T = 67: 50 + 17 and 25 + 42, truncated (rule R130). -/
theorem test_frame_to_pulses_67 :
    result? (.frameToPulses 0x8000) (State.initial { defaultConfig with totalBitTicks := 67 }) =
      some (.pulses (⟨50, 17⟩ :: List.replicate 15 ⟨25, 42⟩)) := by decide

/-- Vectors W1, W4, and a bit period of 0 (V12). -/
theorem test_runs_to_bits :
    result? (.runsToBits rv1.highRuns rv1.lowRuns 51) State.reset = some (.nrzi (some 0x0C9324)) ∧
    result? (.runsToBits [] [] 51) State.reset = some (.nrzi none) ∧
    result? (.runsToBits rv1.highRuns rv1.lowRuns 0) State.reset = some (.nrzi none) := by decide

/-- Vector RV2's capture in captured mode; W7: 994 ticks are one bit short. -/
theorem test_runs_to_bits_modes :
    result? (.runsToBits [51, 102, 102, 102, 102, 102, 102] [102, 51, 51, 102, 51, 51] 51)
      (State.initial { defaultConfig with leadBitMode := .captured }) = some (.nrzi (some 0x136CDB)) ∧
    result? (.runsToBits [994] [] 51) State.reset = some (.nrzi none) := by decide

theorem test_decode_rv1 :
    result? (.decode rv1.highRuns rv1.lowRuns 51) State.reset = some (.telemetry (some rv1Frame)) := by decide

/-- RV13 fails at the CRC: `None`, and DecodeInvalid noted. -/
theorem test_decode_rv13 :
    (next? (exec (.decode rv13.highRuns rv13.lowRuns 51) State.reset)).map (fun t => (t.results, t.diagLog)) =
      some ([.telemetry none], [.decodeInvalid]) := by decide

/-! ### Section 2.4 -/

/-- The result and the pool an instruction leaves. -/
def poolStep (i : Instr) (p : List Bool) : Option (List Result × List Bool) :=
  (next? (exec i (pooled p))).map fun t => (t.results, t.pool)

theorem test_acquire_any :
    poolStep .allocAcquireAny [true, false, true, false] = some ([.index (some 1)], [true, true, true, false]) ∧
    poolStep .allocAcquireAny [true, true, true, true] = some ([.index none], [true, true, true, true]) := by decide

theorem test_acquire_in_range :
    poolStep (.allocAcquireInRange 2 3) [false, false, true, false] = some ([.index (some 3)], [false, false, true, true]) ∧
    poolStep (.allocAcquireInRange 3 2) [false, false, false, false] = some ([.index none], [false, false, false, false]) := by decide

theorem test_acquire_in_range_clipped :
    poolStep (.allocAcquireInRange 2 99) [false, false, false, false] = some ([.index (some 2)], [false, false, true, false]) ∧
    poolStep (.allocAcquireInRange 4 9) [false, false, false, false] = some ([.index none], [false, false, false, false]) := by decide

theorem test_release :
    poolStep (.allocRelease 2) [true, true, true, true] = some ([.unit], [true, true, false, true]) ∧
    poolStep (.allocRelease 2) [true, true, false, true] = some ([.unit], [true, true, false, true]) ∧
    poolStep (.allocRelease 9) [true, true, false, true] = some ([.unit], [true, true, false, true]) := by decide

theorem test_count_free : poolStep .allocCountFree [true, false, true, false] = some ([.nat 2], [true, false, true, false]) := by
  decide

theorem test_is_taken :
    [0, 1, 7].map (fun i => result? (.allocIsTaken i) (pooled [true, false, true, false])) =
      [some (.bool true), some (.bool false), some (.bool false)] := by decide

/-! ### Program P3, steps 12 to 15, one at a time -/

/-- The result, the pool and lease 0 an instruction leaves. -/
def leaseStep (i : Instr) (p : List Bool) (held : Option Nat) : Option (List Result × List Bool × Option Nat) :=
  (next? (exec i (leasing p held))).map fun t => (t.results, t.pool, (t.lease 0).lease.held)

theorem test_lease_acquire_in_range :
    leaseStep (.leaseAcquireInRange 0 2 3) [true, false, true, false] none =
      some ([.bool true], [true, false, true, true], some 3) := by decide

theorem test_lease_acquire_any :
    leaseStep (.leaseAcquireAny 0) [true, false, true, true] (some 3) = some ([.bool true], [true, true, true, false], some 1) := by
  decide

theorem test_lease_disown :
    leaseStep (.leaseDisown 0) [true, true, true, false] (some 1) = some ([.index (some 1)], [true, true, true, false], none) := by
  decide

/-- The example of rule R182, and an empty lease. -/
theorem test_lease_release :
    leaseStep (.leaseRelease 0) [true, true, false, false] (some 1) = some ([.unit], [true, false, false, false], none) ∧
    leaseStep (.leaseRelease 0) [true, true, true, false] none = some ([.unit], [true, true, true, false], none) := by decide

theorem test_lease_destroy :
    leaseStep (.leaseDestroy 0) [true, true, false, false] (some 1) = some ([.unit], [true, false, false, false], none) ∧
    exec (.leaseAcquireAny 0) destroyed = .refused (.leaseDestroyed 0) := by
  constructor
  · decide
  · rfl

/-! ### Scheduler operations -/

/-- What a test looks at after an instruction on instance 0: the results, the pool, and the instance's control state and logs. -/
structure Seen where
  results : List Result
  pool : List Bool
  link : Link := .disarmed
  nextDue : Nat := 0
  counter : Nat := 0
  tx : Option Nat := none
  rx : Option Nat := none
  initialized : Bool := false
  txLog : List U16 := []
  diagLog : List Diag := []
  deriving DecidableEq, Repr

/-- One instruction on instance 0. -/
def seen (i : Instr) (p : List Bool) (S : Instance) : Option Seen :=
  (next? (exec i (having p S))).map fun t =>
    { results := t.results, pool := t.pool, link := (t.inst 0).link, nextDue := (t.inst 0).nextDue
      counter := (t.inst 0).counter, tx := (t.inst 0).tx.held, rx := (t.inst 0).rx.held
      initialized := (t.inst 0).initialized, txLog := (t.inst 0).txLog, diagLog := (t.inst 0).diagLog }

/-- An instance still running, with indices 0 and 1, and what it returned. -/
def stillRunning (r : Result) (link : Link) (due counter : Nat) : Seen :=
  { results := [r], pool := twoTaken, link := link, nextDue := due, counter := counter, tx := some 0, rx := some 1
    initialized := true }

/-- The example of rule R190. -/
theorem test_begin :
    seen (.schedBegin 0) [false, false, false, false] (idle (foreseen [] [true] [] [])) =
      some (stillRunning (.bool true) .disarmed 0 0) := by decide

/-- Program P4 (b) on four channels: the engine rejects, nothing is left behind. -/
theorem test_begin_rejected :
    seen (.schedBegin 0) [false, false, false, false] (idle (foreseen [] [false] [] [])) =
      some { results := [.bool false], pool := [false, false, false, false], diagLog := [.hardwareConfigFailed] } := by decide

/-- Program P4 (c), last step: an instance of its own configuration, without BIDIR, takes one index. -/
theorem test_begin_without_bidir :
    (next? (exec (.schedBegin 1) (((State.initialWith four [(1, { four with bidir := false })]).setInst 1
      { Instance.initial { four with bidir := false } with env := foreseen [] [true] [] [] })))).map
      (fun t => (t.results, t.pool, (t.inst 1).tx.held, (t.inst 1).rx.held)) =
    some ([.bool true], [true, false, false, false], some 0, none) := by decide

/-- The example of rule R205: the idle frame 0x0606, both entries Free. -/
theorem test_end :
    seen (.schedEnd 0) twoTaken (running .armedActive 12000 1 (foreseen [] [] [true] [])) =
      some { results := [.unit], pool := [false, false, false, false], txLog := [0x0606] } := by decide

/-- The examples of rule R191: `arm(true)` from Disarmed, and `arm(false)`, which leaves gate and counter (P2 step 9). -/
theorem test_arm :
    seen (.schedArm 0 true) twoTaken (running .disarmed 0 0 Env.initial) = some (stillRunning .unit .armedZero 0 0) ∧
    seen (.schedArm 0 false) twoTaken (running .armedActive 12000 1 (foreseen [] [] [true] [])) =
      some { stillRunning .unit .disarmed 12000 1 with txLog := [0x0606] } := by decide

/-- The example of rule R192 (divisor 2 changes nothing of it). -/
theorem test_write_normalized :
    seen (.schedWriteNormalized 0 (.finite (1 / 20))) twoTaken (running .armedZero 0 0 (foreseen [5000] [] [true] [])) =
      some { stillRunning (.bool true) .armedActive 6000 1 with txLog := [0x128B] } := by decide +kernel

/-- P5 step 2: the call is dropped at 500 < 1000, the link moves all the same. -/
theorem test_write_normalized_dropped :
    seen (.schedWriteNormalized 0 (.finite (1 / 4))) twoTaken (running .armedZero 1000 1 (foreseen [500] [] [] [])) =
      some { stillRunning (.bool false) .armedActive 1000 1 with diagLog := [.rateLimited] } := by decide +kernel

/-- The example of rule R195. -/
theorem test_send_special :
    seen (.schedSendSpecial 0 20) twoTaken (running .armedZero 0 0 (foreseen [5000] [] [true] [])) =
      some { stillRunning (.bool true) .armedZero 6000 1 with txLog := [0x028A] } := by decide

/-- P5 step 3 as a special command: a failed send has used the slot and the cadence count (rule R276). -/
theorem test_send_special_failed :
    seen (.schedSendSpecial 0 0) twoTaken (running .armedActive 1000 1 (foreseen [1000] [] [false] [])) =
      some { stillRunning (.bool false) .armedActive 2000 0 with diagLog := [.transmitFailed] } := by decide

/-- P2 step 6 as a special command: a request is sent, the window returns RV1, the cache takes it: rpm 6002. -/
theorem test_window :
    (next? (exec (.schedSendSpecial 0 20) (having twoTaken
      (running .armedActive 11000 1 (foreseen [11000] [] [true] [some rv1]))))).map
      (fun t => ((t.inst 0).counter, (t.inst 0).txLog, (t.inst 0).cache.fresh, (t.inst 0).cache.frame, (t.inst 0).cache.rpm)) =
    some (0, [0x029B], true, some rv1Frame, 6002) := by decide +kernel

/-- The instance after the example of rule R199. -/
def reading : Instance :=
  { running .armedActive 0 0 Env.initial with cache := { Cache.initial with fresh := true, frame := some rv1Frame, rpm := 6002 } }

/-- The example of rule R204; the scalars stay. -/
theorem test_read_telemetry :
    (next? (exec (.schedReadTelemetry 0) (having twoTaken reading))).map
      (fun t => (t.results, (t.inst 0).cache.fresh, (t.inst 0).cache.frame, (t.inst 0).cache.rpm)) =
    some ([.telemetry (some rv1Frame)], false, some rv1Frame, 6002) := by decide +kernel

/-- Section 2.5, cache update: 42000 with 7 pole pairs, 234375 with 1, and a voltage in quarters. -/
theorem test_cache_update :
    (cacheUpdate defaultConfig 7 { kind := .erpm, payload12 := 0, crc4 := 0, value := 42000 } Cache.initial).rpm = 6000 ∧
    (cacheUpdate defaultConfig 1 { kind := .erpm, payload12 := 0x100, crc4 := 1, value := 234375 } Cache.initial).rpm = 65535 ∧
    (cacheUpdate defaultConfig 7 { kind := .edtVoltage, payload12 := 0x442, crc4 := 2, value := 66 } Cache.initial).voltage = 33 / 2 :=
  by decide +kernel

/-- Section 2.5, hysteresis, at the thresholds and at NaN. -/
theorem test_hysteresis :
    hysteresis .armedZero (.finite (1 / 25)) = (.finite (1 / 25), .armedActive) ∧
    hysteresis .armedZero .nan = (.finite 0, .armedZero) ∧
    hysteresis .armedActive (.finite (1 / 50)) = (.finite 0, .armedZero) ∧
    hysteresis .armedActive .nan = (.nan, .armedActive) := by decide +kernel

/-! ## Witnesses: a state and operands that meet the hypotheses of each obligation that has some, clause by clause -/

theorem lowest {p : List Bool} {first last i : Nat} (h : scanFree first last p 0 = some i) : Claims.LowestFree p first last i :=
  Laws.scanFree_eq_some.mp h

theorem allTaken {p : List Bool} {first last : Nat} (h : scanFree first last p 0 = none) : Claims.AllTaken p first last :=
  Laws.scanFree_eq_none.mp h

theorem witness_o1 : (Instr.dshotFrameThrottle 48 1 0).wf = true ∧ (Instr.dshotFrameSpecial 47 0 0).wf = true ∧
    (Instr.replyEdtOther 0 255 0).wf = true ∧ (Instr.replyEdtOther 4 0 0).wf = true := by decide

theorem witness_o2 : decode (.reply16 0x5656) = .ok (.replyErpm 2 0x65 6) ∧
    decode (.op 20 [.num 3, .num 255]) = .ok (.schedSendSpecial 3 255) := by decide

theorem witness_o4 : 24 ≤ (24 : U8).toNat ∧ 24 ≤ (255 : U8).toNat ∧ State.reset.configured = true ∧
    (upon (.run (.op 24 [])) State.reset).agenda = [.run (.op 24 [])] ∧
    (upon (.start (.op 24 [])) State.reset).agenda = [.start (.op 24 [])] := by decide

theorem witness_o5 : State.reset.configured = true ∧ State.reset.agenda = [] ∧ decode (.gcr5 0x19) = .ok .gcrNibble0 ∧
    decode (.gcr5 0) = .error (.noGcrRow 0) ∧ decodeTableWord 8 0x11 = some (.schedBegin 0) ∧
    (upon (.resume 0) State.reset).agenda = [.resume 0] ∧ (upon (.resume 0) State.reset).configured = true := by decide

/-- The clauses of `start`, and a request that is refused. -/
theorem witness_o5_start : (upon (.start (.op 17 [.num 0])) State.reset).agenda = [.start (.op 17 [.num 0])] ∧
    decode (.op 17 [.num 0]) = .ok (.schedBegin 0) ∧ decode (.op 22 [.num 0]) = .ok (.schedEnd 0) ∧
    decode (.op 8 []) = .ok .allocAcquireAny ∧ decode (.op 24 []) = .error (.selectorUnassigned 24) ∧
    decode (.op 8 [.num 0]) = .error (.operands 8) := by decide

/-- The bounds of rule R9, met exactly and missed by one. -/
theorem witness_o6 :
    configWf { defaultConfig with idleOffset := 1999, totalBitTicks := 8, poolSize := 1, polePairs := 1 } = true ∧
    configWf { defaultConfig with idleOffset := 2000 } = false ∧ configWf { defaultConfig with totalBitTicks := 65536 } = false ∧
    configWf { defaultConfig with gcrTable := [] } = false ∧
    ({ State.reset with instCfgs := [(3, { defaultConfig with polePairs := 0 })] } : State).configured = false := by decide

theorem witness_o8 : Claims.nibbleXor (Claims.erpmPayload 2 0x65) = 6 ∧ Claims.nibbleXor (Claims.erpmPayload 2 0x65) ≠ 7 := by decide

theorem witness_o9 : Claims.nibbleXor (Claims.edtPayload 2 0x25) = 5 ∧ Claims.nibbleXor (Claims.edtPayload 4 0x42) = 2 ∧
    Claims.nibbleXor (Claims.edtPayload 6 0x0C) = 0xA ∧ (Instr.replyEdtOther 4 0xAA 8).wf = true ∧
    Claims.nibbleXor (Claims.edtPayload ((4#3).setWidth 4 <<< 1) 0xAA) = 8 ∧
    Claims.nibbleXor (Claims.edtPayload 2 0x25) ≠ 4 := by decide

theorem witness_o11 : State.reset.cfg.gcrTable = defaultGcrTable := by decide

theorem witness_o12_o13 : configWf State.reset.cfg = true ∧ (0 : Rat) ≤ 1 / 25 ∧ (1 / 25 : Rat) ≤ 1 := by decide +kernel

theorem witness_o19 : configWf State.reset.cfg = true ∧ configWf { defaultConfig with totalBitTicks := 67 } = true := by decide

/-- Positions on both sides of the end: HIGH runs run out, LOW runs run out. -/
theorem witness_o20 : 2 * 0 + 1 < (interleave [1] [2]).length ∧ 2 * 1 < (interleave [1, 3] [2]).length ∧
    (interleave [1, 3] [2]).length = 3 := by decide

/-- 995 ticks give the twenty bits that suffice behind the lead bit, 994 one too few. -/
theorem witness_o21 : ([false] ++ Claims.expandRuns 51 true (interleave [995] [])).length = 21 ∧
    ([false] ++ Claims.expandRuns 51 true (interleave [994] [])).length = 20 := by decide

theorem witness_o22 :
    runsToBits State.reset.cfg [] [] 51 = none ∧ runsToBits State.reset.cfg rv1.highRuns rv1.lowRuns 51 = some 0x0C9324 ∧
    State.reset.cfg.gcrTable[(Claims.group 0x0C9324 3).toNat]?.getD none = some 5 ∧
    State.reset.cfg.gcrTable[(Claims.group 0x0C9324 0).toNat]?.getD none = some 6 ∧ (5 ^^^ 6 ^^^ 5 ^^^ 6 : U4) = 0 ∧
    runsToBits State.reset.cfg rv13.highRuns rv13.lowRuns 51 = some 0x0C9325 ∧
    State.reset.cfg.gcrTable[(Claims.group 0x0C9325 0).toNat]?.getD none = some 7 ∧ (5 ^^^ 6 ^^^ 5 ^^^ 7 : U4) ≠ 0 ∧
    runsToBits State.reset.cfg [1020] [] 51 = some 0x0FFFFF ∧
    State.reset.cfg.gcrTable[(Claims.group 0x0FFFFF 3).toNat]?.getD none = none := by decide

theorem witness_o23 : (0x225 : U12).getLsbD 8 = false ∧ (0x100 : U12).getLsbD 8 = true ∧ (0xFFF : U12).getLsbD 8 = true := by decide

theorem witness_o24 : State.reset.cfg.leadBitMode = .synthetic ∧ State.reset.cfg.gcrTable = defaultGcrTable ∧
    exec (.decode rv1.highRuns rv1.lowRuns 51) State.reset =
      .next (Claims.returned State.reset (.telemetry (some rv1Frame))) := by
  refine ⟨rfl, rfl, ?_⟩
  have : decodeReply State.reset.cfg rv1.highRuns rv1.lowRuns 51 = some rv1Frame := by decide
  simp only [exec, execDecode, this, State.retDecoded, State.ret, Claims.returned]

theorem witness_o25 : Claims.LowestFree (pooled [false, false, true, false]).pool 2 3 3 ∧
    Claims.LowestFree (pooled [true, false, true, false]).pool 0 3 1 ∧ Claims.AllTaken (pooled [false, false, true, true]).pool 2 3 ∧
    Claims.AllTaken (pooled [false, false, false, false]).pool 3 2 ∧ Claims.AllTaken (pooled [false, false, false, false]).pool 4 9 ∧
    Claims.AllTaken (pooled [true, true, true, true]).pool 0 3 :=
  ⟨lowest (by decide), lowest (by decide), allTaken (by decide), allTaken (by decide), allTaken (by decide), allTaken (by decide)⟩

theorem witness_o26_o27 : 0 < Claims.freeCount (pooled [true, true, true, false]).pool ∧
    Claims.freeCount (pooled [true, true, true, true]).pool = 0 ∧ 3 < (pooled [true, true, true, false]).pool.length ∧
    (pooled [true, true, true, false]).pool[3]? = some false ∧ (pooled [true, true, true, false]).pool.length ≤ 4 := by decide

theorem witness_o30 :
    ((leasing [true, false, true, true] (some 3)).lease 0).destroyed = false ∧
    Claims.LowestFree (Claims.givenBack ((leasing [true, false, true, true] (some 3)).lease 0).lease [true, false, true, true]) 2 3 3 ∧
    Claims.LowestFree (Claims.givenBack ((leasing [true, false, true, true] (some 3)).lease 0).lease [true, false, true, true]) 0 3 1 ∧
    Claims.AllTaken (Claims.givenBack ((leasing [true, false, true, true] (some 3)).lease 0).lease [true, false, true, true]) 0 0 ∧
    Claims.AllTaken (Claims.givenBack ((leasing [true, true, true, true] none).lease 0).lease [true, true, true, true]) 0 3 :=
  ⟨by decide, lowest (by decide), lowest (by decide), allTaken (by decide), allTaken (by decide)⟩

theorem witness_o31_o32_o33 : ((leasing [true, true, false, false] (some 1)).lease 0).destroyed = false ∧
    (destroyed.lease 0).destroyed = true := by decide

/-- No transmit index; no receive index; the engine's refusal with and without BIDIR. -/
theorem witness_o34 :
    ((having [true, true, true, true] (idle Env.initial)).inst 0).busy = none ∧
    ((having [true, true, true, true] (idle Env.initial)).inst 0).initialized = false ∧
    ((having [true, true, true, true] (idle Env.initial)).inst 0).tx.held = none ∧
    ((having [true, true, true, true] (idle Env.initial)).inst 0).rx.held = none ∧
    Claims.AllTaken [true, true, true, true] 0 3 ∧ Claims.LowestFree [true, true, true, false] 0 3 3 ∧
    ((having [true, true, true, false] (idle Env.initial)).instCfg 0).bidir = true ∧
    Claims.AllTaken ([true, true, true, false].set 3 true) 0 3 ∧
    Claims.LowestFree [false, false, false, false] 0 3 0 ∧ Claims.LowestFree ([false, false, false, false].set 0 true) 0 3 1 ∧
    Claims.configureAnswer 0 (idle (foreseen [] [false] [] [])) = false :=
  ⟨by decide, by decide, by decide, by decide, allTaken (by decide), lowest (by decide), by decide, allTaken (by decide),
    lowest (by decide), lowest (by decide), by decide⟩

/-- With BIDIR, and without it on an instance of its own configuration. -/
theorem witness_o35 :
    Claims.LowestFree [false, false, false, false] 0 3 0 ∧ Claims.LowestFree ([false, false, false, false].set 0 true) 0 3 1 ∧
    Claims.configureAnswer 0 (idle (foreseen [] [true] [] [])) = true ∧
    ((State.initialWith four [(1, { four with bidir := false })]).instCfg 1).bidir = false :=
  ⟨lowest (by decide), lowest (by decide), by decide, by decide⟩

theorem witness_o36 :
    ((having twoTaken (running .disarmed 0 0 Env.initial)).inst 0).busy = none ∧
    ((having twoTaken (running .disarmed 0 0 Env.initial)).inst 0).initialized = true ∧
    ((having twoTaken { idle Env.initial with busy := some .beginTx }).inst 0).busy ≠ none := by decide

theorem witness_o37_o38 :
    ((having twoTaken (running .armedActive 0 0 Env.initial)).inst 0).busy = none ∧
    ((having twoTaken (running .armedActive 0 0 Env.initial)).inst 0).initialized = true ∧
    ((having twoTaken (idle Env.initial)).inst 0).initialized = false := by decide

theorem witness_o39 :
    ((having twoTaken (running .disarmed 0 0 Env.initial)).inst 0).link = .disarmed ∧
    ((having twoTaken { idle Env.initial with link := .armedZero }).inst 0).initialized = false ∧
    ((having twoTaken { idle Env.initial with link := .armedZero }).inst 0).busy = none := by decide

/-- On both sides of the gate, with a request to send, with each answer of the engine, with a sample and without. -/
theorem witness_o40_o41 :
    (running .armedZero 1000 1 (foreseen [999] [] [] [])).link ≠ .disarmed ∧
    (running .armedZero 1000 1 (foreseen [999] [] [] [])).initialized = true ∧
    Claims.clockReading 0 (running .armedZero 1000 1 (foreseen [999] [] [] [])) = 999 ∧
    Claims.clockReading 0 (running .armedZero 1000 1 (foreseen [1000] [] [] [])) = 1000 ∧
    Claims.transmitAnswer 0 (Claims.afterGate 0 (running .armedZero 1000 1 (foreseen [1000] [] [true] []))) = true ∧
    Claims.transmitAnswer 0 (Claims.afterGate 0 (running .armedZero 1000 1 (foreseen [1000] [] [false] []))) = false ∧
    (running .armedZero 1000 1 (foreseen [1000] [] [true] [])).divisor ≤ 1 + 1 ∧
    Claims.captureAnswer 0 (running .armedZero 1000 1 (foreseen [1000] [] [true] [some rv1])) = some rv1 ∧
    Claims.captureAnswer 0 (running .armedZero 1000 1 (foreseen [1000] [] [true] [none])) = none ∧
    decodeReply four rv1.highRuns rv1.lowRuns 51 = some rv1Frame ∧ decodeReply four rv13.highRuns rv13.lowRuns 51 = none := by
  decide

theorem witness_o42 : ((having twoTaken reading).inst 0).busy = none ∧ ((having twoTaken reading).inst 0).cache.fresh = true := by
  decide +kernel

theorem witness_o44 : 1 ≤ 1 ∧ 1 ≤ 32 := by decide

/-- P2 steps 4 and 5: 400 µs apart, the first sent. -/
def firstWrite : State := having twoTaken (running .armedZero 0 0 (foreseen [10000, 400] [] [true] []))

theorem witness_o45 : ∃ t, exec (.schedWriteNormalized 0 (.finite (1 / 2))) firstWrite = .next t ∧
    t.results = firstWrite.results ++ [.bool true] ∧
    Claims.clockReading 0 (t.inst 0) < (t.inst 0).env.time + (t.inst 0).periodUs := by
  refine ⟨_, rfl, ?_, ?_⟩ <;> decide +kernel

/-- The idle frame of `arm(false)`, and that of an `end` in flight. -/
theorem witness_o46 :
    48 ≤ ((having twoTaken (running .armedActive 0 0 (foreseen [] [] [true] []))).instCfg 0).idleCode.toNat ∧
    ([upon (.run (.op 0x12 [.num 0, .flag false])) (having twoTaken (running .armedActive 0 0 (foreseen [] [] [true] []))),
      upon (.resume 0) (having twoTaken { running .armedActive 0 0 (foreseen [] [] [true] []) with busy := some .endTransmit })].map
      fun s => ((next? (step s)).map fun t => (t.inst 0).txLog, s.nextInstr)) =
    [(some [0x0606], some (.schedArm 0 false)), (some [0x0606], none)] := by decide

/-! ### A state with the three invariants, on which `arm(false)` is next -/

def invariantState : State :=
  upon (.run (.op 0x12 [.num 0, .flag false])) (having twoTaken (running .armedActive 0 1 (foreseen [] [] [true] [])))

theorem invariantState_inst (k : InstId) (h : k ≠ 0) : invariantState.inst k = Instance.initial four := by
  have : (having twoTaken (running .armedActive 0 1 (foreseen [] [] [true] []))).inst k = (pooled twoTaken).inst k :=
    Laws.inst_setInst_other _ _ _ _ h
  exact this

theorem invariantState_inst_0 : invariantState.inst 0 = running .armedActive 0 1 (foreseen [] [] [true] []) := by
  have : (having twoTaken (running .armedActive 0 1 (foreseen [] [] [true] []))).inst 0 =
      running .armedActive 0 1 (foreseen [] [] [true] []) := Laws.inst_setInst_same _ _ _
  exact this

theorem witness_o47 : Memory.wf invariantState = true ∧ (next? (step invariantState)).isSome = true := by decide

theorem witness_o48 : SchedulerInv invariantState := by
  refine ⟨by decide, fun k => ?_⟩
  have hc : invariantState.instCfg k = four := rfl
  rw [hc]
  by_cases h : k = 0
  · rw [h, invariantState_inst_0]
    refine ⟨rfl, rfl, rfl, by decide, fun f hf => ?_, fun hf => ?_, ⟨rfl, rfl⟩⟩
    · cases hf
    · cases hf
  · rw [invariantState_inst k h]
    refine ⟨rfl, rfl, rfl, by decide, fun f hf => ?_, fun hf => ?_, ⟨rfl, rfl⟩⟩
    · cases hf
    · cases hf

theorem invariantState_heldBy (o : Owner) (i : Nat) (h : invariantState.heldBy o = some i) :
    (o = .tx 0 ∧ i = 0) ∨ (o = .rx 0 ∧ i = 1) := by
  cases o with
  | tx k =>
    by_cases hk : k = 0
    · subst hk
      rw [State.heldBy, invariantState_inst_0] at h
      exact .inl ⟨rfl, by simpa [running, eq_comm] using h⟩
    · rw [State.heldBy, invariantState_inst k hk] at h
      cases h
  | rx k =>
    by_cases hk : k = 0
    · subst hk
      rw [State.heldBy, invariantState_inst_0] at h
      exact .inr ⟨rfl, by simpa [running, eq_comm] using h⟩
    · rw [State.heldBy, invariantState_inst k hk] at h
      cases h
  | standalone l => cases h

theorem witness_o49 : PoolLeaseInv invariantState ∧ KeepsOwnership invariantState := by
  refine ⟨⟨fun o i h => ?_, fun o o' i h h' => ?_⟩, fun i h => ?_⟩
  · rcases invariantState_heldBy o i h with ⟨-, rfl⟩ | ⟨-, rfl⟩ <;> decide
  · rcases invariantState_heldBy o i h with ⟨rfl, rfl⟩ | ⟨rfl, rfl⟩ <;>
      rcases invariantState_heldBy o' _ h' with ⟨rfl, h1⟩ | ⟨rfl, h1⟩ <;> first | rfl | exact absurd h1 (by decide)
  · have : invariantState.nextInstr = some (.schedArm 0 false) := by decide
    rw [this] at h
    cases h

/-- A raw release of an index no lease holds is within the host's duty. -/
theorem witness_o49_release : KeepsOwnership (upon (.run (.op 0x0A [.num 2])) invariantState) := by
  intro i h o ho
  have : (upon (.run (.op 0x0A [.num 2])) invariantState).nextInstr = some (.allocRelease 2) := by decide
  rw [this] at h
  cases h
  rcases invariantState_heldBy o 2 ho with ⟨-, h1⟩ | ⟨-, h1⟩ <;> exact absurd h1 (by decide)

theorem witness_o50 : (next? (State.construct four [(1, { four with bidir := false })])).isSome = true := by decide

theorem witness_o51 :
    (next? (exec (.schedBegin 0) (having [false, false, false, false] (idle (foreseen [] [true] [] []))))).isSome = true ∧
    (next? (exec (.schedEnd 0) invariantState)).isSome = true := by decide

/-- `arm(false)` on instance 0: it changes nothing of instance 1 (O52), sends a frame (O54), disarms (O55), leaves the pool;
`end` writes the pool (O56). -/
theorem witness_o52_to_o57 :
    (next? (step invariantState)).map (fun t => ((t.inst 0).txLog, (t.inst 0).link)) = some ([0x0606], .disarmed) ∧
    (invariantState.inst 0).txLog = [] ∧ (invariantState.inst 0).link = .armedActive ∧
    (next? (step (upon (.run (.op 0x16 [.num 0])) invariantState))).map (fun t => t.pool) = some [false, false, false, false] := by
  decide

theorem witness_o52 : ∀ e, invariantState.agenda.head? = some e → ¬ Claims.names e 1 := by
  intro e h hn
  have he : e = .run (.op 0x12 [.num 0, .flag false]) := by simpa [invariantState, upon, eq_comm] using h
  subst he
  rcases hn with hn | ⟨i, hi, hn⟩
  · cases hn
  · have : Event.instr (.run (.op 0x12 [.num 0, .flag false])) = some (.schedArm 0 false) := by decide
    rw [this] at hi
    cases hi
    rcases hn with hn | ⟨_, hn⟩ | ⟨_, hn⟩ | ⟨_, hn⟩ | hn | hn <;> cases hn

/-- O58: both kinds of event, a code with a row and one without. -/
theorem witness_o58 : (upon (.run (.gcr5 0x19)) State.reset).configured = true ∧
    (upon (.start (.gcr5 0)) State.reset).agenda = [.start (.gcr5 0)] ∧ decode (.gcr5 0) = .error (.noGcrRow 0) := by decide

/-- O59: an operation on lease 1 leaves lease 0, and so does a step of a `begin` in flight. -/
theorem witness_o59 :
    ((upon (.run (.op 13 [.num 1])) (leasing [true, false, false, false] (some 0))).nextInstr = some (.leaseAcquireAny 1)) ∧
    (next? (step (upon (.run (.op 13 [.num 1])) (leasing [true, false, false, false] (some 0))))).map
      (fun t => ((t.lease 0).lease.held, (t.lease 1).lease.held)) = some (some 0, some 1) ∧
    (next? (step (upon (.resume 0) (having twoTaken { idle Env.initial with busy := some .beginTx })))).map
      (fun t => t.pool) = some [true, true, true, false] := by decide

/-- O60: each place a `begin` or an `end` can stand at, with what decides its step. -/
theorem witness_o60 :
    (∀ p ∈ [Phase.beginTx, .beginRx, .beginConfigure, .undoRx .hardwareConfigFailed, .undoTx .resourceExhausted, .endTransmit,
      .endRx, .endTx, .endReset], ((having twoTaken { idle Env.initial with busy := some p }).inst 0).busy = some p) ∧
    ((having twoTaken (idle Env.initial)).inst 0).busy = none ∧ ((having twoTaken (idle Env.initial)).inst 0).initialized = false ∧
    ((having twoTaken (running .disarmed 0 0 Env.initial)).inst 0).initialized = true ∧
    Claims.LowestFree (Claims.givenBack { held := none } [true, true, true, false]) 0 3 3 ∧
    Claims.AllTaken (Claims.givenBack { held := none } [true, true, true, true]) 0 3 ∧
    Claims.configureAnswer 0 (idle (foreseen [] [true] [] [])) = true ∧
    Claims.configureAnswer 0 (idle (foreseen [] [false] [] [])) = false :=
  ⟨by decide, by decide, by decide, by decide, lowest (by decide), allTaken (by decide), by decide, by decide⟩

/-- The other changes of the link: arming, and each threshold. -/
theorem witness_o55 :
    (seen (.schedArm 0 true) twoTaken (running .disarmed 0 0 Env.initial)).map (·.link) = some .armedZero ∧
    (seen (.schedWriteNormalized 0 (.finite (1 / 25))) twoTaken (running .armedZero 1 0 (foreseen [0] [] [] []))).map (·.link) =
      some .armedActive ∧
    (seen (.schedWriteNormalized 0 (.finite (1 / 50))) twoTaken (running .armedActive 1 0 (foreseen [0] [] [] []))).map (·.link) =
      some .armedZero := by decide +kernel

end Tests
end

/-! PROOFS. The packet codec (rules R112 to R115): a 16-bit word is its payload followed by its CRC nibble, `crc4` is linear over
XOR, and so the words `decode_and_validate` accepts are closed under XOR. -/

namespace Sys2Proof.Proofs.PacketCodec
open Sys2Proof Sys2Proof.Machine

/-! ### The three operations -/

theorem exec_crc4 (p : U12) (s : State) : exec (.crc4 p) s = .next (Claims.returned s (.u4 (crc4 p))) := rfl

theorem exec_buildFrame (value11 : U11) (t : Bit) (s : State) :
    exec (.buildFrame value11 t) s = .next (Claims.returned s (.u16 (buildFrame value11 t))) := rfl

theorem exec_decodeAndValidate (w : U16) (s : State) :
    exec (.decodeAndValidate w) s = .next (Claims.returned s (.payload (decodeAndValidate w))) := rfl

/-! ### A word is its payload followed by its CRC -/

@[simp] theorem wordPayload_append (p : U12) (c : U4) : wordPayload (p ++ c) = p := BitVec.extractLsb'_append_eq_left

@[simp] theorem wordCrc_append (p : U12) (c : U4) : wordCrc (p ++ c) = c := BitVec.extractLsb'_append_eq_right

theorem wordPayload_append_wordCrc (w : U16) : wordPayload w ++ wordCrc w = w :=
  BitVec.extractLsb'_append_extractLsb' (w := 12) (len := 4) (x := w)

theorem wordPayload_xor (v w : U16) : wordPayload (v ^^^ w) = wordPayload v ^^^ wordPayload w := BitVec.extractLsb'_xor

theorem wordCrc_xor (v w : U16) : wordCrc (v ^^^ w) = wordCrc v ^^^ wordCrc w := BitVec.extractLsb'_xor

theorem value12_eq_valueAndFlag (value11 : U11) (t : Bit) : value12 value11 t = Claims.valueAndFlag value11 t := rfl

theorem value12_eq_append (value11 : U11) (t : Bit) : value12 value11 t = value11 ++ t :=
  (BitVec.setWidth_append_eq_shiftLeft_setWidth_or (w'' := 12)).symm.trans (BitVec.setWidth_eq _)

theorem frameWord_eq_append (value11 : U11) (t : Bit) (c : U4) : frameWord value11 t c = value12 value11 t ++ c := by
  rw [value12_eq_append]
  exact (BitVec.setWidth_append_append_eq_shiftLeft_setWidth_or (w''' := 16) (b := value11) (b' := t) (b'' := c)).symm.trans
    (BitVec.setWidth_eq _)

theorem buildFrame_eq_append (value11 : U11) (t : Bit) :
    buildFrame value11 t = value12 value11 t ++ crc4 (value12 value11 t) :=
  (BitVec.setWidth_append_eq_shiftLeft_setWidth_or (w'' := 16)).symm.trans (BitVec.setWidth_eq _)

/-- `build_frame` is the frame layout of rule R81 with the CRC filled in. -/
theorem buildFrame_eq_frameWord (value11 : U11) (t : Bit) :
    buildFrame value11 t = frameWord value11 t (crc4 (value12 value11 t)) := by
  rw [buildFrame_eq_append, frameWord_eq_append]

/-! ### The CRC -/

theorem crc4_eq_nibbleXor (p : U12) : crc4 p = Claims.nibbleXor p := by
  simp only [crc4, Claims.nibbleXor, BitVec.setWidth_xor, BitVec.setWidth_ushiftRight_eq_extractLsb]
  rw [BitVec.setWidth_eq_extractLsb' (by decide)]
  ac_rfl

theorem crc4_xor (p q : U12) : crc4 (p ^^^ q) = crc4 p ^^^ crc4 q := by
  simp only [crc4, BitVec.ushiftRight_xor_distrib, BitVec.setWidth_xor]
  ac_rfl

theorem crc4_bit : ∀ i < 12, crc4 (1#12 <<< i) = 1#4 <<< (i % 4) := by decide

/-! ### The words that are accepted -/

theorem decodeAndValidate_append (p : U12) (c : U4) :
    decodeAndValidate (p ++ c) = if crc4 p = c then some (p, true) else none := by
  simp only [decodeAndValidate, wordPayload_append, wordCrc_append]

theorem decodeAndValidate_ne_none {w : U16} : decodeAndValidate w ≠ none ↔ crc4 (wordPayload w) = wordCrc w := by
  simp [decodeAndValidate]

theorem decodeAndValidate_eq_ite_nibbleXor (w : U16) :
    decodeAndValidate w =
      if w.extractLsb' 0 4 = Claims.nibbleXor (w.extractLsb' 4 12) then some (w.extractLsb' 4 12, true) else none := by
  rw [← crc4_eq_nibbleXor]
  exact if_congr eq_comm rfl rfl

/-- An error turns an accepted word into an accepted one only where the error is itself an accepted word. -/
theorem accepted_of_accepted_xor {w e : U16} (hw : decodeAndValidate w ≠ none) (hwe : decodeAndValidate (w ^^^ e) ≠ none) :
    decodeAndValidate e ≠ none := by
  rw [decodeAndValidate_ne_none] at hw hwe ⊢
  rw [wordPayload_xor, wordCrc_xor, crc4_xor, hw] at hwe
  exact (BitVec.xor_right_inj _).mp hwe

theorem decodeAndValidate_bit : ∀ i < 16, decodeAndValidate (1#16 <<< i) = none := by decide

theorem existsUnique_accepted (p : U12) : ∃! v : U16, wordPayload v = p ∧ decodeAndValidate v ≠ none := by
  refine ⟨p ++ crc4 p, ⟨wordPayload_append p _, by simp [decodeAndValidate_append]⟩, fun v ⟨hp, hv⟩ => ?_⟩
  have hcrc : crc4 p = wordCrc v := hp ▸ decodeAndValidate_ne_none.mp hv
  rw [hcrc, ← hp, wordPayload_append_wordCrc]

theorem decodeAndValidate_buildFrame (value11 : U11) (t : Bit) :
    decodeAndValidate (buildFrame value11 t) = some (value12 value11 t, true) := by
  rw [buildFrame_eq_append, decodeAndValidate_append, if_pos rfl]

/-! ### The obligations -/

/-- Settles O15: a flipped bit is a XOR, so linearity reduces it to the twelve (and sixteen) one-bit words. -/
theorem crcIsTheXorOfTheNibbles : Obligations.CrcIsTheXorOfTheNibbles := by
  intro s p
  refine ⟨?_, crc4_xor p, fun i hi => ?_, fun w i hi hw => ?_⟩
  · rw [exec_crc4, crc4_eq_nibbleXor]
  · rw [crc4_xor, crc4_bit i hi]
  · by_contra hflip
    exact accepted_of_accepted_xor hw hflip (decodeAndValidate_bit i hi)

/-- Settles O16, from the layout of a frame word and the payload before its CRC. -/
theorem buildFrameLaysOutTheFields : Obligations.BuildFrameLaysOutTheFields := by
  intro s value11 t
  refine ⟨buildFrame value11 t, exec_buildFrame value11 t s, ?_⟩
  obtain ⟨hvalue, hflag, hcrc⟩ := Laws.RoundTrip.frame_fields value11 t (crc4 (value12 value11 t))
  have hpayload : (buildFrame value11 t).extractLsb' 4 12 = value12 value11 t := by
    rw [buildFrame_eq_append]
    exact wordPayload_append _ _
  rw [hpayload, ← crc4_eq_nibbleXor, buildFrame_eq_frameWord]
  exact ⟨hvalue, hflag, hcrc⟩

/-- Settles O17: the one accepted word of a payload `p` is `p` followed by `crc4 p`. -/
theorem decodeAndValidateChecksTheCrc : Obligations.DecodeAndValidateChecksTheCrc := by
  intro s w
  refine ⟨?_, existsUnique_accepted⟩
  rw [exec_decodeAndValidate, decodeAndValidate_eq_ite_nibbleXor]

/-- Settles O18: a built frame is its payload followed by that payload's CRC. -/
theorem builtFrameDecodesToItsPayload : Obligations.BuiltFrameDecodesToItsPayload := by
  intro s value11 t
  refine ⟨buildFrame value11 t, exec_buildFrame value11 t s, ?_⟩
  rw [exec_decodeAndValidate, decodeAndValidate_buildFrame, value12_eq_valueAndFlag]

end Sys2Proof.Proofs.PacketCodec

/-! PROOFS. The reply decoder (rules R150 to R155): the groups of an NRZI word, their lookups, and the reply value as the payload
of its first three nibbles followed by the fourth. -/

namespace Sys2Proof.Proofs.BDShotDecoder
open Sys2Proof Sys2Proof.Machine Sys2Proof.Proofs.PacketCodec

/-! ### The operation and its two returns -/

theorem exec_decode (high low : List Nat) (rbt : Nat) (s : State) :
    exec (.decode high low rbt) s = .next (s.retDecoded (decodeReply s.cfg high low rbt)) := rfl

@[simp] theorem retDecoded_none (s : State) : s.retDecoded none = Claims.decodeFailed s := rfl

@[simp] theorem retDecoded_some (s : State) (f : TelemetryFrame) :
    s.retDecoded (some f) = Claims.returned s (.telemetry (some f)) := rfl

/-! ### Groups and lookups (rules R151 to R153) -/

theorem gcrLookup_eq_getElem? (c : Config) (code : U5) : gcrLookup c code = c.gcrTable[code.toNat]?.getD none :=
  List.getD_eq_getElem?_getD

theorem nrziToGcr_group (n21 : U21) {k : Nat} (hk : k < 4) :
    (nrziToGcr n21).extractLsb' (5 * k) 5 = Claims.group n21 k :=
  BitVec.extractLsb'_setWidth_of_le (by omega)

theorem gcrToNibbles_eq_some_iff (c : Config) (gcr20 : U20) (n : Nibbles) :
    gcrToNibbles c gcr20 = some n ↔
      gcrLookup c (gcr20.extractLsb' (5 * 3) 5) = some n.n3 ∧ gcrLookup c (gcr20.extractLsb' (5 * 2) 5) = some n.n2 ∧
      gcrLookup c (gcr20.extractLsb' (5 * 1) 5) = some n.n1 ∧ gcrLookup c (gcr20.extractLsb' (5 * 0) 5) = some n.n0 := by
  unfold gcrToNibbles
  constructor
  · intro h
    split at h
    · next h3 h2 h1 h0 =>
      cases h
      exact ⟨h3, h2, h1, h0⟩
    · cases h
  · rintro ⟨h3, h2, h1, h0⟩
    simp only [Nat.reduceMul] at h3 h2 h1 h0
    simp only [h3, h2, h1, h0]

/-- An invalid lookup at any of the four groups leaves no nibbles for the whole word. -/
theorem gcrToNibbles_eq_none {c : Config} {gcr20 : U20} {k : Nat} (hk : k < 4)
    (hlookup : gcrLookup c (gcr20.extractLsb' (5 * k) 5) = none) : gcrToNibbles c gcr20 = none := by
  refine Option.eq_none_iff_forall_ne_some.mpr fun n hn => ?_
  obtain ⟨h3, h2, h1, h0⟩ := (gcrToNibbles_eq_some_iff c gcr20 n).mp hn
  interval_cases k
  · exact nomatch h0.symm.trans hlookup
  · exact nomatch h1.symm.trans hlookup
  · exact nomatch h2.symm.trans hlookup
  · exact nomatch h3.symm.trans hlookup

/-! ### The reply value (rule R154) -/

theorem assembleReply_eq_append (n : Nibbles) : assembleReply n = (n.n3 ++ n.n2 ++ n.n1 : U12) ++ n.n0 := by
  have hword : BitVec.setWidth 16 (n.n3 ++ n.n2 ++ n.n1 ++ n.n0) = assembleReply n := by
    simp only [BitVec.setWidth_append_eq_shiftLeft_setWidth_or, BitVec.shiftLeft_or_distrib, ← BitVec.shiftLeft_add,
      assembleReply]
  exact hword.symm.trans (BitVec.setWidth_eq _)

theorem nibbles_append (a b c : U4) :
    (a ++ b ++ c : U12).extractLsb' 8 4 = a ∧ (a ++ b ++ c : U12).extractLsb' 4 4 = b ∧
    (a ++ b ++ c : U12).extractLsb' 0 4 = c := by
  refine ⟨?_, ?_, BitVec.extractLsb'_append_eq_right⟩
  · exact (BitVec.extractLsb'_append_eq_of_le (by decide)).trans BitVec.extractLsb'_append_eq_left
  · exact (BitVec.extractLsb'_append_eq_of_le (by decide)).trans BitVec.extractLsb'_append_eq_right

theorem crc4_append (a b c : U4) : crc4 (a ++ b ++ c : U12) = a ^^^ b ^^^ c := by
  obtain ⟨ha, hb, hc⟩ := nibbles_append a b c
  rw [crc4_eq_nibbleXor, Claims.nibbleXor, ha, hb, hc]

/-- The CRC check of a reply is that its four nibbles XOR to zero. -/
theorem readReply_assembleReply (n : Nibbles) :
    readReply (assembleReply n) =
      if n.n3 ^^^ n.n2 ^^^ n.n1 ^^^ n.n0 = 0#4 then some (classify (n.n3 ++ n.n2 ++ n.n1) n.n0) else none := by
  rw [assembleReply_eq_append, readReply, decodeAndValidate_append, crc4_append, wordCrc_append]
  simp only [BitVec.xor_eq_zero_iff]
  split <;> rfl

/-! ### The steps in a row (rule R150) -/

section
variable {c : Config} {high low : List Nat} {rbt : Nat} {n21 : U21}

theorem decodeReply_of_tooFewBits (hbits : runsToBits c high low rbt = none) : decodeReply c high low rbt = none := by
  rw [decodeReply, hbits, Option.bind_none]

theorem decodeReply_of_bits (hbits : runsToBits c high low rbt = some n21) :
    decodeReply c high low rbt = (gcrToNibbles c (nrziToGcr n21)).bind fun nibs => readReply (assembleReply nibs) := by
  rw [decodeReply, hbits, Option.bind_some]

theorem decodeReply_of_invalidGroup {k : Nat} (hbits : runsToBits c high low rbt = some n21) (hk : k < 4)
    (hlookup : gcrLookup c (Claims.group n21 k) = none) : decodeReply c high low rbt = none := by
  rw [← nrziToGcr_group n21 hk] at hlookup
  rw [decodeReply_of_bits hbits, gcrToNibbles_eq_none hk hlookup, Option.bind_none]

theorem decodeReply_of_nibbles (n : Nibbles) (hbits : runsToBits c high low rbt = some n21)
    (h3 : gcrLookup c (Claims.group n21 3) = some n.n3) (h2 : gcrLookup c (Claims.group n21 2) = some n.n2)
    (h1 : gcrLookup c (Claims.group n21 1) = some n.n1) (h0 : gcrLookup c (Claims.group n21 0) = some n.n0) :
    decodeReply c high low rbt =
      if n.n3 ^^^ n.n2 ^^^ n.n1 ^^^ n.n0 = 0#4 then some (classify (n.n3 ++ n.n2 ++ n.n1) n.n0) else none := by
  rw [← nrziToGcr_group n21 (by decide)] at h3 h2 h1 h0
  rw [decodeReply_of_bits hbits, (gcrToNibbles_eq_some_iff c _ n).mpr ⟨h3, h2, h1, h0⟩, Option.bind_some,
    readReply_assembleReply]

end

/-! ### The obligation -/

/-- Settles O22, exit by exit in the order of rule R150; the payload of a success is its first three nibbles in a row. -/
theorem decodeFollowsItsSteps : Obligations.DecodeFollowsItsSteps := by
  intro s high low rbt
  simp only [exec_decode, ← gcrLookup_eq_getElem?]
  refine ⟨fun hbits => ?_, fun n21 hbits => ⟨fun ⟨k, hk, hlookup⟩ => ?_, fun a b c d h3 h2 h1 h0 => ?_⟩⟩
  · rw [decodeReply_of_tooFewBits hbits, retDecoded_none]
  · rw [decodeReply_of_invalidGroup hbits hk hlookup, retDecoded_none]
  · rw [decodeReply_of_nibbles ⟨a, b, c, d⟩ hbits h3 h2 h1 h0]
    refine ⟨fun hcrc => ?_, fun hcrc => ?_⟩
    · rw [if_neg hcrc, retDecoded_none]
    · obtain ⟨ha, hb, hc⟩ := nibbles_append a b c
      exact ⟨a ++ b ++ c, ha, hb, hc, by rw [if_pos hcrc, retDecoded_some]⟩

end Sys2Proof.Proofs.BDShotDecoder

/-! PROOFS. The channel allocator and the release of a lease (rules R172, R176, R182): a release writes one entry Free, so doing it
again writes nothing new, and a lease that has given its index back holds none to give. -/

namespace Sys2Proof.Proofs.ChannelAllocator
open Sys2Proof Sys2Proof.Machine Sys2Proof.Laws

/-! ### The operations -/

theorem exec_allocRelease (index : Nat) (s : State) :
    exec (.allocRelease index) s = .next (Claims.pooled s (poolRelease index s.pool) .unit) := rfl

theorem exec_allocCountFree (s : State) :
    exec .allocCountFree s = .next (Claims.returned s (.nat (poolCountFree s.pool))) := rfl

theorem exec_leaseRelease {s : State} {l : LeaseId} (hlive : (s.lease l).destroyed = false) :
    exec (.leaseRelease l) s = .next (leaseReleaseState l false (s.lease l) s) :=
  (onLease_next (f := fun slot => leaseReleaseState l false slot s)).mpr ⟨hlive, rfl⟩

@[simp] theorem pooled_pool (s : State) (p : List Bool) (r : Result) : (Claims.pooled s p r).pool = p := rfl

/-! ### The pool -/

theorem poolRelease_eq_self {i : Nat} {p : List Bool} (h : p[i]? = some false ∨ p.length ≤ i) : poolRelease i p = p := by
  refine if_neg fun ⟨hlt, htaken⟩ => ?_
  rw [poolTaken_eq_true] at htaken
  rcases h with hfree | hout
  · rw [hfree] at htaken
    contradiction
  · omega

theorem poolRelease_idem (i : Nat) (p : List Bool) : poolRelease i (poolRelease i p) = poolRelease i p := by
  simp only [poolRelease_eq_set, List.set_set]

theorem getElem?_poolRelease_same {i : Nat} {p : List Bool} (h : i < p.length) : (poolRelease i p)[i]? = some false := by
  rw [poolRelease_eq_set, List.getElem?_set_self h]

theorem getElem?_poolRelease_other {i j : Nat} (p : List Bool) (h : j ≠ i) : (poolRelease i p)[j]? = p[j]? := by
  rw [poolRelease_eq_set, List.getElem?_set_ne h.symm]

/-- The indices of `b :: p` are 0 and the successors of those of `p`. -/
theorem freeCount_cons (b : Bool) (p : List Bool) :
    Claims.freeCount (b :: p) = Claims.freeCount p + if b = false then 1 else 0 := by
  unfold Claims.freeCount
  rw [List.length_cons, List.range_succ_eq_map]
  cases b <;> simp [List.filter_map, Function.comp_def]

theorem poolCountFree_eq_freeCount (p : List Bool) : poolCountFree p = Claims.freeCount p := by
  induction p with
  | nil => rfl
  | cons b rest ih =>
    rw [freeCount_cons, ← ih, poolCountFree, poolCountFree, List.countP_cons]
    cases b <;> rfl

/-! ### Leases -/

theorem leaseRelease_eq_givenBack (L : Lease) (p : List Bool) :
    leaseRelease L p = ({ held := none }, Claims.givenBack L p) := by
  rw [leaseRelease_eq]
  cases h : L.held <;> simp only [Claims.givenBack, h]

/-- Writing the pool and one lease and returning a result changes nothing else. -/
theorem leaseStep_of_writes (s : State) (l : LeaseId) (v : LeaseSlot) (p : List Bool) (r : Result) :
    Claims.LeaseStep s (((s.setPool p).setLease l v).ret r) l v p r :=
  ⟨rfl, lease_setLease_same .., fun _ hne => lease_setLease_other _ _ _ _ hne, fun _ => rfl, rfl, rfl, rfl, rfl, rfl⟩

theorem leaseStep_leaseReleaseState (s : State) (l : LeaseId) (destroy : Bool) (slot : LeaseSlot) :
    Claims.LeaseStep s (leaseReleaseState l destroy slot s) l { lease := { held := none }, destroyed := destroy }
      (Claims.givenBack slot.lease s.pool) .unit := by
  unfold leaseReleaseState
  rw [leaseRelease_eq_givenBack]
  exact leaseStep_of_writes ..

/-! ### The obligations -/

/-- Settles O27, clause by clause for the pool the model's release leaves. -/
theorem releaseIsIdempotent : Obligations.ReleaseIsIdempotent := by
  intro s index
  refine ⟨poolRelease index s.pool, exec_allocRelease index s, poolRelease_length index s.pool,
    fun _ hne => getElem?_poolRelease_other s.pool hne, getElem?_poolRelease_same, poolRelease_eq_self, ?_⟩
  rw [exec_allocRelease, pooled_pool, poolRelease_idem]

/-- Settles O28, by the two counts of a pool agreeing. -/
theorem countFreeCountsTheFreeEntries : Obligations.CountFreeCountsTheFreeEntries := by
  intro s
  rw [exec_allocCountFree, poolCountFree_eq_freeCount]

/-- Settles O31: both releases are the same step, and the second is of the empty lease the first left. -/
theorem leaseReleaseGivesTheIndexBackOnce : Obligations.LeaseReleaseGivesTheIndexBackOnce := by
  intro s l hlive
  have first := leaseStep_leaseReleaseState s l false (s.lease l)
  have ⟨_, hempty, _⟩ := first
  refine ⟨_, _, exec_leaseRelease hlive, exec_leaseRelease (by rw [hempty]), first, ?_⟩
  rw [hempty]
  exact leaseStep_leaseReleaseState _ l false { lease := { held := none }, destroyed := false }

end Sys2Proof.Proofs.ChannelAllocator

/-! PROOFS. The telemetry read of a scheduler instance (rule R204): whatever the flag was, the read leaves the instance with the
flag clear and everything else as it was, so a second read finds nothing and changes nothing. -/

namespace Sys2Proof.Proofs.EscLinkScheduler
open Sys2Proof Sys2Proof.Machine Sys2Proof.Laws

/-- Writing one instance and returning a result changes nothing else. -/
theorem instStep_of_writes (s : State) (k : InstId) (i : Instance) (r : Result) :
    Claims.InstStep s ((s.setInst k i).ret r) k i s.pool r :=
  ⟨rfl, inst_setInst_same s k i, fun k' hne => inst_setInst_other s k k' i hne, fun _ => rfl, rfl, rfl, rfl, rfl, rfl⟩

/-- A stale cache is kept whole, which is the same as clearing its flag. -/
theorem readCache_eq (c : Cache) : readCache c = (if c.fresh then c.frame else none, { c with fresh := false }) := by
  obtain ⟨fresh⟩ := c
  cases fresh <;> rfl

theorem readTelemetry_eq (i : Instance) :
    i.readTelemetry = (if i.cache.fresh then i.cache.frame else none, { i with cache := { i.cache with fresh := false } }) := by
  rw [Instance.readTelemetry, readCache_eq]

theorem exec_schedReadTelemetry {s : State} {k : InstId} (hidle : (s.inst k).busy = none) :
    exec (.schedReadTelemetry k) s =
      .next ((s.setInst k (s.inst k).readTelemetry.2).ret (.telemetry (s.inst k).readTelemetry.1)) :=
  (onInstance_next (f := fun i => (.telemetry i.readTelemetry.1, i.readTelemetry.2))).mpr ⟨hidle, rfl⟩

/-- A read of an idle instance goes on, to that instance with the flag clear. -/
theorem exists_schedReadTelemetry_instStep {s : State} {k : InstId} (hidle : (s.inst k).busy = none) :
    ∃ t, exec (.schedReadTelemetry k) s = .next t ∧
      Claims.InstStep s t k { s.inst k with cache := { (s.inst k).cache with fresh := false } } s.pool
        (.telemetry (if (s.inst k).cache.fresh then (s.inst k).cache.frame else none)) := by
  refine ⟨_, exec_schedReadTelemetry hidle, ?_⟩
  rw [readTelemetry_eq]
  exact instStep_of_writes ..

/-- Settles O42: the second read is a read of the instance the first left, idle as before and with the flag clear. -/
theorem readTelemetryConsumesTheSample : Obligations.ReadTelemetryConsumesTheSample := by
  rintro s k _ rfl hidle
  obtain ⟨t, hfirst, first⟩ := exists_schedReadTelemetry_instStep hidle
  have ⟨hpool, hinst, _⟩ := first
  obtain ⟨u, hsecond, second⟩ := exists_schedReadTelemetry_instStep (s := t) (k := k) (by rw [hinst, hidle])
  rw [hinst, hpool] at second
  exact ⟨t, u, hfirst, hsecond, first, second⟩

end Sys2Proof.Proofs.EscLinkScheduler

/-! PROOFS. Encoding and decoding (rules R80 to R97): each wire format is its fields in a row, and each selector reads back the
argument list it is written with. -/

namespace Sys2Proof.Proofs.Encoding
open Sys2Proof Sys2Proof.Machine Sys2Proof.Laws

/-! ### Wire formats from their words -/

theorem frameWord_fields (w : U16) : frameWord (w.extractLsb' 5 11) (w.extractLsb' 4 1) (w.extractLsb' 0 4) = w := by
  apply BitVec.eq_of_getLsbD_eq
  intro i hi
  interval_cases i <;> simp [frameWord]

theorem replyWord_fields (w : U16) :
    replyWord (w.extractLsb' 13 3) (w.extractLsb' 12 1) (w.extractLsb' 4 8) (w.extractLsb' 0 4) = w := by
  apply BitVec.eq_of_getLsbD_eq
  intro i hi
  interval_cases i <;> simp [replyWord]

theorem nrziWord_fields (w : U21) : nrziWord (w.extractLsb' 20 1) (w.extractLsb' 0 20) = w := by
  apply BitVec.eq_of_getLsbD_eq
  intro i hi
  interval_cases i <;> simp [nrziWord]

theorem special_value {w : U16} (h : ¬ 48 ≤ (w.extractLsb' 5 11).toNat) :
    (w.extractLsb' 5 6).toNat ≤ 47 ∧ (w.extractLsb' 5 6).setWidth 11 = w.extractLsb' 5 11 := by
  simp only [BitVec.extractLsb'_toNat] at h ⊢
  refine ⟨by omega, BitVec.eq_of_toNat_eq ?_⟩
  simp only [BitVec.toNat_setWidth, BitVec.extractLsb'_toNat]
  omega

theorem decodeFrame16_encode (w : U16) : (decodeFrame16 w).wf = true ∧ encode (decodeFrame16 w) = .frame16 w := by
  unfold decodeFrame16
  dsimp only
  split
  · next hv => exact ⟨by simpa [Instr.wf] using hv, by rw [encode, frameWord_fields]⟩
  · next hv =>
    obtain ⟨hwf, hcode⟩ := special_value hv
    exact ⟨by simpa [Instr.wf] using hwf, by rw [encode, hcode, frameWord_fields]⟩

theorem decodeReply16_encode (w : U16) : (decodeReply16 w).wf = true ∧ encode (decodeReply16 w) = .reply16 w := by
  have hw := replyWord_fields w
  unfold decodeReply16
  dsimp only
  split
  · next hb => exact ⟨rfl, by rw [encode, ← hb, hw]⟩
  · next hb =>
    have hb0 : w.extractLsb' 12 1 = 0#1 := (BitVec.eq_zero_or_eq_one _).resolve_right hb
    rw [hb0] at hw
    split
    · next ht => exact ⟨rfl, by rw [encode, ← ht, hw]⟩
    · next ht1 =>
      split
      · next ht => exact ⟨rfl, by rw [encode, ← ht, hw]⟩
      · next ht2 =>
        split
        · next ht => exact ⟨rfl, by rw [encode, ← ht, hw]⟩
        · next ht3 => exact ⟨by simp [Instr.wf, ht1, ht2, ht3], by rw [encode, hw]⟩

theorem decodeNrzi21_encode (w : U21) : (decodeNrzi21 w).wf = true ∧ encode (decodeNrzi21 w) = .nrzi21 w :=
  ⟨rfl, by rw [decodeNrzi21, encode, nrziWord_fields]⟩

theorem decodeGcr5_encode : ∀ (w : U5) (i : Instr), decodeGcr5 w = .ok i → i.wf = true ∧ encode i = .gcr5 w := by
  have h : ∀ w : U5, (decodeGcr5 w).toOption.all (fun i => i.wf && encode i == .gcr5 w) = true := by decide
  intro w i hi
  have hw := h w
  rw [hi] at hw
  simpa [Except.toOption] using hw

/-! ### Operation requests -/

theorem readWord_eq_some {w n : Nat} {x : BitVec w} (h : readWord w n = some x) : x.toNat = n := by
  unfold readWord at h
  split at h
  · next hlt =>
    cases h
    exact Nat.mod_eq_of_lt hlt
  · cases h

/-- The selector of a matched row, and what its argument list was read as. -/
theorem readOperation_encode {selector : U8} {operands : List Operand} {i : Instr}
    (h : readOperation selector operands = some i) : i.wf = true ∧ encode i = .op selector operands := by
  have hselector : selector = BitVec.ofNat 8 selector.toNat := by simp
  unfold readOperation at h
  split at h
  case h_25 => cases h
  all_goals rw [‹selector.toNat = _›] at hselector; subst hselector
  case h_4 =>
    simp only [Option.bind_eq_some_iff, Option.map_eq_some_iff] at h
    obtain ⟨v, hv, b, hb, rfl⟩ := h
    exact ⟨rfl, by simp [encode, readWord_eq_some hv, readWord_eq_some hb]⟩
  case h_2 | h_3 | h_5 | h_6 | h_21 =>
    obtain ⟨v, hv, rfl⟩ := Option.map_eq_some_iff.mp h
    exact ⟨rfl, by simp [encode, readWord_eq_some hv]⟩
  all_goals
    cases h
    exact ⟨rfl, rfl⟩

theorem decode_encode_request {r : Request} {i : Instr} (h : Sys2Proof.decode r = .ok i) : i.wf = true ∧ encode i = r := by
  cases r with
  | frame16 w => cases h; exact decodeFrame16_encode w
  | reply16 w => cases h; exact decodeReply16_encode w
  | nrzi21 w => cases h; exact decodeNrzi21_encode w
  | gcr5 w => exact decodeGcr5_encode w i h
  | op selector operands =>
    simp only [Sys2Proof.decode, decodeOp] at h
    split at h
    · next hread => cases h; exact readOperation_encode hread
    · split at h <;> cases h

theorem decodeOp_unassigned {selector : U8} (operands : List Operand) (h : 24 ≤ selector.toNat) :
    decodeOp selector operands = .error (.selectorUnassigned selector) := by
  have hread : readOperation selector operands = none := by
    unfold readOperation
    split
    case h_25 => rfl
    all_goals omega
  rw [decodeOp, hread]
  exact if_neg (by omega)

/-! ### The step on a request that is refused -/

theorem step_of_agenda {s : State} {e : Event} {rest : List Event} (hc : s.configured = true) (ha : s.agenda = e :: rest) :
    step s = runEvent e { s with agenda := rest } := by
  rw [step, if_pos hc, runAgenda, ha]

/-- Run or left in flight, a request that is no instruction is rejected alike. -/
theorem step_of_undecodable {s : State} {r : Request} {rest : List Event} {why : Reject} (hc : s.configured = true)
    (ha : s.agenda = .run r :: rest ∨ s.agenda = .start r :: rest) (hd : Sys2Proof.decode r = .error why) :
    step s = rejectRequest why { s with agenda := rest } := by
  rcases ha with ha | ha
  · rw [step_of_agenda hc ha, runEvent, runRequest, hd]
  · rw [step_of_agenda hc ha, runEvent, startRequest, hd]

/-! ### The obligations -/

/-- Settles O1, row by row of the opcode table. -/
theorem decodeOfEncodeIsTheInstruction : Obligations.DecodeOfEncodeIsTheInstruction := by
  intro i
  cases i with
  | dshotFrameThrottle value11 t crc => exact RoundTrip.dshotFrameThrottle value11 t crc
  | dshotFrameSpecial code t crc => exact RoundTrip.dshotFrameSpecial code t crc
  | replyErpm e m crc => exact RoundTrip.replyErpm e m crc
  | replyEdtTemperature raw crc => exact RoundTrip.replyEdtTemperature raw crc
  | replyEdtVoltage raw crc => exact RoundTrip.replyEdtVoltage raw crc
  | replyEdtCurrent raw crc => exact RoundTrip.replyEdtCurrent raw crc
  | replyEdtOther ty raw crc => exact RoundTrip.replyEdtOther ty raw crc
  | nrziWord lead levels => exact RoundTrip.nrziWord lead levels
  | gcrNibble0 => exact RoundTrip.gcrNibble0
  | gcrNibble1 => exact RoundTrip.gcrNibble1
  | gcrNibble2 => exact RoundTrip.gcrNibble2
  | gcrNibble3 => exact RoundTrip.gcrNibble3
  | gcrNibble4 => exact RoundTrip.gcrNibble4
  | gcrNibble5 => exact RoundTrip.gcrNibble5
  | gcrNibble6 => exact RoundTrip.gcrNibble6
  | gcrNibble7 => exact RoundTrip.gcrNibble7
  | gcrNibble8 => exact RoundTrip.gcrNibble8
  | gcrNibble9 => exact RoundTrip.gcrNibble9
  | gcrNibbleA => exact RoundTrip.gcrNibbleA
  | gcrNibbleB => exact RoundTrip.gcrNibbleB
  | gcrNibbleC => exact RoundTrip.gcrNibbleC
  | gcrNibbleD => exact RoundTrip.gcrNibbleD
  | gcrNibbleE => exact RoundTrip.gcrNibbleE
  | gcrNibbleF => exact RoundTrip.gcrNibbleF
  | encodeThrottle x => exact RoundTrip.encodeThrottle x
  | encodeSpecial code => exact RoundTrip.encodeSpecial code
  | crc4 p => exact RoundTrip.crc4 p
  | buildFrame value11 t => exact RoundTrip.buildFrame value11 t
  | decodeAndValidate frame16 => exact RoundTrip.decodeAndValidate frame16
  | frameToPulses frame16 => exact RoundTrip.frameToPulses frame16
  | runsToBits high low rbt => exact RoundTrip.runsToBits high low rbt
  | decode high low rbt => exact RoundTrip.decode high low rbt
  | allocAcquireAny => exact RoundTrip.allocAcquireAny
  | allocAcquireInRange first last => exact RoundTrip.allocAcquireInRange first last
  | allocRelease index => exact RoundTrip.allocRelease index
  | allocCountFree => exact RoundTrip.allocCountFree
  | allocIsTaken index => exact RoundTrip.allocIsTaken index
  | leaseAcquireAny lease => exact RoundTrip.leaseAcquireAny lease
  | leaseAcquireInRange lease first last => exact RoundTrip.leaseAcquireInRange lease first last
  | leaseRelease lease => exact RoundTrip.leaseRelease lease
  | leaseDestroy lease => exact RoundTrip.leaseDestroy lease
  | schedBegin inst => exact RoundTrip.schedBegin inst
  | schedArm inst on => exact RoundTrip.schedArm inst on
  | schedWriteNormalized inst x => exact RoundTrip.schedWriteNormalized inst x
  | schedSendSpecial inst code => exact RoundTrip.schedSendSpecial inst code
  | schedReadTelemetry inst => exact RoundTrip.schedReadTelemetry inst
  | schedEnd inst => exact RoundTrip.schedEnd inst
  | leaseDisown lease => exact RoundTrip.leaseDisown lease

/-- Settles O2, format by format; an operation selector by selector. -/
theorem encodeOfDecodedIsTheRequest : Obligations.EncodeOfDecodedIsTheRequest :=
  fun _ _ => decode_encode_request

/-- Settles O3, by running the decoder on each word. -/
theorem wordsOfTheSpecDecode : Obligations.WordsOfTheSpecDecode := by
  unfold Obligations.WordsOfTheSpecDecode
  decide

/-- Settles O4: no row of the selector table matches 24 or more. -/
theorem unassignedSelectorsAreRefused : Obligations.UnassignedSelectorsAreRefused := by
  intro selector operands h
  have hd := decodeOp_unassigned operands h
  exact ⟨hd, fun s rest hc ha => by rw [step_of_undecodable hc ha hd, rejectRequest]⟩

end Sys2Proof.Proofs.Encoding

/-! PROOFS. The step (rules R9, R251): which event it takes, and the configurations under which it takes one. -/

namespace Sys2Proof.Proofs.Step
open Sys2Proof Sys2Proof.Machine Sys2Proof.Laws Sys2Proof.Proofs.Encoding Sys2Proof.Proofs.BDShotDecoder

/-! ### One event -/

section
variable {s : State} {r : Request} {rest : List Event} {i : Instr} (hc : s.configured = true)
include hc

theorem step_of_run (ha : s.agenda = .run r :: rest) (hd : Sys2Proof.decode r = .ok i) :
    step s = exec i { s with agenda := rest } := by
  rw [step_of_agenda hc ha, runEvent, runRequest, hd]

theorem step_of_start (ha : s.agenda = .start r :: rest) (hd : Sys2Proof.decode r = .ok i)
    (hplain : ∀ k, i ≠ .schedBegin k ∧ i ≠ .schedEnd k) : step s = exec i { s with agenda := rest } := by
  rw [step_of_agenda hc ha, runEvent, startRequest, hd]
  cases i
  case schedBegin k => exact absurd rfl (hplain k).1
  case schedEnd k => exact absurd rfl (hplain k).2
  all_goals rfl

theorem step_of_start_begin {k : InstId} (ha : s.agenda = .start r :: rest) (hd : Sys2Proof.decode r = .ok (.schedBegin k)) :
    step s = startBegin k { s with agenda := rest } := by
  rw [step_of_agenda hc ha, runEvent, startRequest, hd]

theorem step_of_start_end {k : InstId} (ha : s.agenda = .start r :: rest) (hd : Sys2Proof.decode r = .ok (.schedEnd k)) :
    step s = startEnd k { s with agenda := rest } := by
  rw [step_of_agenda hc ha, runEvent, startRequest, hd]

theorem step_of_nothing (ha : s.agenda = []) : step s = .next s := by
  rw [step, if_pos hc, runAgenda, ha]

/-- A word placed for the next step is the agenda's first event, and the state past it is the state it was placed in. -/
theorem step_withFetchWord {nbits w : Nat} (h : decodeTableWord nbits w = some i) :
    step (s.withFetchWord nbits w) = exec i s := by
  obtain ⟨r, hr, hoption⟩ := Option.bind_eq_some_iff.mp h
  have hd : Sys2Proof.decode r = .ok i := by
    cases hd : Sys2Proof.decode r with
    | error why => rw [hd] at hoption; cases hoption
    | ok i' => rw [hd] at hoption; cases hoption; rfl
  rw [State.withFetchWord, hr]
  exact step_of_run (s := s.issue r) hc rfl hd

end

theorem lookUpCode_eq_returned (code : U5) (s : State) :
    lookUpCode code s = Claims.returned s (.nibble (s.cfg.gcrTable[code.toNat]?.getD none)) := by
  rw [lookUpCode_eq, gcrLookup_eq_getElem?]
  rfl

/-- Settles O5, by the kind of the first event. -/
theorem stepRunsTheDecodedInstruction : Obligations.StepRunsTheDecodedInstruction := by
  refine fun s hc => ⟨fun r rest i => step_of_run hc, fun r rest k => step_of_start_begin hc,
    fun r rest k => step_of_start_end hc, fun r rest i => step_of_start hc, fun r rest why ha hd => ⟨?_, fun hno => ?_⟩,
    fun k rest ha => ?_, step_of_nothing hc, fun nbits w i => step_withFetchWord hc⟩
  · rintro code rfl
    rw [step_of_undecodable hc ha hd, rejectRequest, lookUpCode_eq_returned]
  · rw [step_of_undecodable hc ha hd]
    cases why with
    | noGcrRow code => exact absurd rfl (hno code)
    | selectorUnassigned selector => rfl
    | operands selector => rfl
  · rw [step_of_agenda hc ha, runEvent]

/-! ### Configurations -/

theorem configWf_iff (c : Config) :
    configWf c = true ↔
      1 ≤ c.poolSize ∧ c.idleOffset ≤ 1999 ∧ 1 ≤ c.telemetryDivisor ∧ 1 ≤ c.polePairs ∧
      8 ≤ c.totalBitTicks ∧ c.totalBitTicks ≤ 65535 ∧ 1 ≤ c.replyBitTicks ∧ c.gcrTable.length = 32 ∧
      (c.gcrTable.filter (·.isSome)).length = 16 := by
  simp only [configWf, Bool.and_eq_true, decide_eq_true_eq, validEntries, List.countP_eq_length_filter, and_assoc]

theorem constructible_iff (c : Config) (own : List (Nat × Config)) :
    (configWf c && own.all fun e => configWf e.2 && decide (e.2.poolSize = c.poolSize)) = true ↔
      configWf c = true ∧ ∀ e ∈ own, configWf e.2 = true ∧ e.2.poolSize = c.poolSize := by
  simp

theorem configured_iff (s : State) :
    s.configured = true ↔
      configWf s.cfg = true ∧ ∀ e ∈ s.instCfgs, configWf e.2 = true ∧ e.2.poolSize = s.cfg.poolSize :=
  constructible_iff s.cfg s.instCfgs

/-- Settles O6, clause by clause. -/
theorem illFormedConfigurationIsRefused : Obligations.IllFormedConfigurationIsRefused := by
  refine fun c own => ⟨configWf_iff c, fun hc hown => ?_, fun hbad => ?_, fun s hbad => ?_⟩
  · exact if_pos ((constructible_iff c own).mpr ⟨hc, hown⟩)
  · refine if_neg fun h => ?_
    obtain ⟨hc, hown⟩ := (constructible_iff c own).mp h
    rcases hbad with hbad | ⟨e, he, hbad⟩
    · rw [hc] at hbad; cases hbad
    · rw [(hown e he).1] at hbad; cases hbad
  · refine if_neg fun h => ?_
    obtain ⟨hc, hown⟩ := (configured_iff s).mp h
    rcases hbad with hbad | ⟨e, he, hbad⟩
    · rw [hc] at hbad; cases hbad
    · rw [(hown e he).1] at hbad; cases hbad

end Sys2Proof.Proofs.Step

/-! PROOFS. The wire-format rows and the classification of replies (rules R81 to R92, R151 to R160): every word is its payload
followed by its CRC field, and a payload is classified by its number. -/

namespace Sys2Proof.Proofs.WireFormats
open Sys2Proof Sys2Proof.Machine Sys2Proof.Proofs.PacketCodec Sys2Proof.Proofs.BDShotDecoder Sys2Proof.Proofs.Encoding
  Sys2Proof.Proofs.Step
open Claims (nibbleXor valueAndFlag erpmPayload edtPayload returned decodeFailed)

/-! ### Command frames -/

theorem decodeAndValidate_frameWord (value11 : U11) (t : Bit) (crc : U4) :
    decodeAndValidate (frameWord value11 t crc) =
      if nibbleXor (valueAndFlag value11 t) = crc then some (valueAndFlag value11 t, true) else none := by
  rw [frameWord_eq_append, decodeAndValidate_append, crc4_eq_nibbleXor, value12_eq_valueAndFlag]

/-- Settles O7, for the two rows of a command frame. -/
theorem commandFrameIsReadIfItsCrcHolds : Obligations.CommandFrameIsReadIfItsCrcHolds := by
  intro s t crc
  have hread (v : U11) (f : CommandFrame) :
      s.ret (.command ((decodeAndValidate (frameWord v t crc)).map fun _ => f)) =
        returned s (.command (if nibbleXor (valueAndFlag v t) = crc then some f else none)) := by
    rw [decodeAndValidate_frameWord]
    split <;> rfl
  exact ⟨fun value11 => congrArg _ (hread value11 _), fun code => congrArg _ (hread (code.setWidth 11) _)⟩

/-! ### Classification -/

@[simp] theorem classify_payload12 (p : U12) (crc : U4) : (classify p crc).payload12 = p := by
  unfold classify
  split <;> rfl

@[simp] theorem classify_crc4 (p : U12) (crc : U4) : (classify p crc).crc4 = crc := by
  unfold classify
  split <;> rfl

theorem getLsbD_eight (p : U12) : p.getLsbD 8 = decide (p.toNat / 256 % 2 = 1) := by
  rw [BitVec.getLsbD, Nat.testBit_eq_decide_div_mod_eq]

theorem edtKind_eq (p : U12) :
    edtKind p =
      if p.toNat / 256 = 2 then .edtTemperature else if p.toNat / 256 = 4 then .edtVoltage
      else if p.toNat / 256 = 6 then .edtCurrent else .edtOther := by
  have htype (n : U4) : p.extractLsb' 8 4 = n ↔ p.toNat / 256 = n.toNat := by
    rw [← BitVec.toNat_inj, BitVec.extractLsb'_toNat, Nat.shiftRight_eq_div_pow]
    omega
  simp only [edtKind, htype]
  rfl

theorem erpm_eq (p : U12) : erpm p = 60000000 / (max (p.toNat % 512) 1 * 2 ^ (p.toNat / 512)) := by
  have hexp : (p.extractLsb' 9 3).toNat = p.toNat / 512 := by
    rw [BitVec.extractLsb'_toNat, Nat.shiftRight_eq_div_pow]
    omega
  have hmant : (p.extractLsb' 0 9).toNat = p.toNat % 512 := by
    rw [BitVec.extractLsb'_toNat, Nat.shiftRight_zero]
  simp only [erpm, hexp, hmant]

/-- Extended telemetry: payload bit 8 is 0. -/
theorem classify_edt {p : U12} (crc : U4) (h : p.getLsbD 8 = false) :
    classify p crc = { kind := edtKind p, payload12 := p, crc4 := crc, value := p.toNat % 256 } := by
  rw [classify, if_pos h, BitVec.extractLsb'_toNat, Nat.shiftRight_zero]

/-- eRPM: payload bit 8 is 1, so the mantissa is 256 or more. -/
theorem classify_erpm {p : U12} (crc : U4) (h : p.getLsbD 8 = true) :
    classify p crc =
      { kind := .erpm, payload12 := p, crc4 := crc, value := 60000000 / ((p.toNat % 512) * 2 ^ (p.toNat / 512)) } := by
  have hmax : max (p.toNat % 512) 1 = p.toNat % 512 := by
    rw [getLsbD_eight, decide_eq_true_eq] at h
    omega
  rw [classify, if_neg (by simp [h]), erpm_eq, hmax]

/-- The divisor of an eRPM value lies between 256 and 511 · 128. -/
theorem erpm_divisor_bounds {p : U12} (h : p.getLsbD 8 = true) :
    256 ≤ (p.toNat % 512) * 2 ^ (p.toNat / 512) ∧ (p.toNat % 512) * 2 ^ (p.toNat / 512) ≤ 511 * 128 := by
  rw [getLsbD_eight, decide_eq_true_eq] at h
  have hp := p.isLt
  constructor
  · calc 256 = 256 * 1 := rfl
      _ ≤ (p.toNat % 512) * 2 ^ (p.toNat / 512) := Nat.mul_le_mul (by omega) Nat.one_le_two_pow
  · have hexp : 2 ^ (p.toNat / 512) ≤ 2 ^ 7 := Nat.pow_le_pow_right (by decide) (by omega)
    exact Nat.mul_le_mul (by omega) hexp

/-- Settles O23: both kinds of payload by their number. -/
theorem classificationIsByBitEight : Obligations.ClassificationIsByBitEight := by
  refine fun p crc => ⟨classify_payload12 p crc, classify_crc4 p crc, fun h => ?_, fun h => ?_⟩
  · rw [classify_edt crc h]
    exact ⟨rfl, edtKind_eq p⟩
  · obtain ⟨hlow, hhigh⟩ := erpm_divisor_bounds h
    rw [classify_erpm crc h]
    generalize (p.toNat % 512) * 2 ^ (p.toNat / 512) = d at hlow hhigh
    refine ⟨rfl, ?_, ?_, ?_, ?_⟩
    · exact (Nat.le_div_iff_mul_le (by omega)).mpr (by omega)
    · exact Nat.le_of_lt_succ ((Nat.div_lt_iff_lt_mul (by omega)).mpr (by omega))
    · exact Nat.div_mul_le_self ..
    · exact (Nat.div_lt_iff_lt_mul (by omega)).mp (Nat.lt_succ_self _)

/-! ### Reply values -/

theorem readReply_append (p : U12) (crc : U4) :
    readReply (p ++ crc) = if nibbleXor p = crc then some (classify p crc) else none := by
  rw [readReply, decodeAndValidate_append, wordCrc_append, crc4_eq_nibbleXor]
  split <;> rfl

theorem replyWord_eq_append (top3 : BitVec 3) (bit12 : Bit) (low8 : U8) (crc : U4) :
    replyWord top3 bit12 low8 crc = (top3 ++ bit12 ++ low8 : U12) ++ crc := by
  have hword : BitVec.setWidth 16 (top3 ++ bit12 ++ low8 ++ crc) = replyWord top3 bit12 low8 crc := by
    simp only [BitVec.setWidth_append_eq_shiftLeft_setWidth_or, BitVec.shiftLeft_or_distrib, ← BitVec.shiftLeft_add,
      replyWord]
  exact hword.symm.trans (BitVec.setWidth_eq _)

theorem toNat_append_eq {w v : Nat} (x : BitVec w) (y : BitVec v) : (x ++ y).toNat = x.toNat * 2 ^ v + y.toNat := by
  rw [BitVec.toNat_append, ← Nat.shiftLeft_add_eq_or_of_lt y.isLt, Nat.shiftLeft_eq]

theorem erpmPayload_eq_append (e : BitVec 3) (m : U8) : erpmPayload e m = e ++ 1#1 ++ m :=
  (BitVec.setWidth_append_append_eq_shiftLeft_setWidth_or (w''' := 12) (b := e) (b' := 1#1) (b'' := m)).symm.trans
    (BitVec.setWidth_eq _)

theorem edtPayload_eq_append (type : U4) (raw : U8) : edtPayload type raw = type ++ raw :=
  (BitVec.setWidth_append_eq_shiftLeft_setWidth_or (w'' := 12)).symm.trans (BitVec.setWidth_eq _)

theorem erpmPayload_toNat (e : BitVec 3) (m : U8) : (erpmPayload e m).toNat = (e.toNat * 2 + 1) * 256 + m.toNat := by
  rw [erpmPayload_eq_append, toNat_append_eq, toNat_append_eq]
  rfl

/-- Settles O8: the payload's mantissa is 256 + m, its exponent e. -/
theorem erpmReplyIsRead : Obligations.ErpmReplyIsRead := by
  intro s e m crc
  have hread : exec (.replyErpm e m crc) s = .next (s.retDecoded (readReply (replyWord e 1#1 m crc))) := rfl
  have hnat := erpmPayload_toNat e m
  rw [hread, replyWord_eq_append, ← erpmPayload_eq_append, readReply_append]
  refine ⟨fun hcrc => ?_, fun hcrc => ?_⟩
  · have hbit : (erpmPayload e m).getLsbD 8 = true := by
      rw [getLsbD_eight, hnat, decide_eq_true_eq]
      omega
    have hmant : (erpmPayload e m).toNat % 512 = 256 + m.toNat := by omega
    have hexp : (erpmPayload e m).toNat / 512 = e.toNat := by omega
    rw [if_pos hcrc, classify_erpm crc hbit, hmant, hexp]
    rfl
  · rw [if_neg hcrc]
    rfl

theorem edtPayload_toNat (ty : BitVec 3) (raw : U8) :
    (edtPayload (ty ++ 0#1) raw).toNat = ty.toNat * 2 * 256 + raw.toNat := by
  rw [edtPayload_eq_append, toNat_append_eq, toNat_append_eq]
  rfl

theorem edtKind_edtPayload (ty : BitVec 3) (raw : U8) :
    edtKind (edtPayload (ty ++ 0#1) raw) =
      if ty = 1#3 then .edtTemperature else if ty = 2#3 then .edtVoltage else if ty = 3#3 then .edtCurrent
      else .edtOther := by
  have htype (n : BitVec 3) : ty = n ↔ (edtPayload (ty ++ 0#1) raw).toNat / 256 = n.toNat * 2 := by
    rw [edtPayload_toNat, ← BitVec.toNat_inj]
    omega
  rw [edtKind_eq]
  simp only [htype]
  rfl

/-- The extended-telemetry rows as one: a type code whose lowest bit is 0, and a raw byte. -/
theorem retDecoded_edt (s : State) (ty : BitVec 3) (raw : U8) (crc : U4) :
    (nibbleXor (edtPayload (ty ++ 0#1) raw) = crc →
      s.retDecoded (readReply (replyWord ty 0#1 raw crc)) = returned s (.telemetry (some
        { kind := edtKind (edtPayload (ty ++ 0#1) raw), payload12 := edtPayload (ty ++ 0#1) raw, crc4 := crc,
          value := raw.toNat }))) ∧
    (nibbleXor (edtPayload (ty ++ 0#1) raw) ≠ crc →
      s.retDecoded (readReply (replyWord ty 0#1 raw crc)) = decodeFailed s) := by
  have hnat := edtPayload_toNat ty raw
  rw [replyWord_eq_append, ← edtPayload_eq_append, readReply_append]
  refine ⟨fun hcrc => ?_, fun hcrc => ?_⟩
  · have hbit : (edtPayload (ty ++ 0#1) raw).getLsbD 8 = false := by
      rw [getLsbD_eight, hnat, decide_eq_false_iff_not]
      omega
    have hraw : (edtPayload (ty ++ 0#1) raw).toNat % 256 = raw.toNat := by omega
    rw [if_pos hcrc, classify_edt crc hbit, hraw]
    rfl
  · rw [if_neg hcrc]
    rfl

theorem setWidth_shiftLeft_eq_append : ∀ ty : BitVec 3, ty.setWidth 4 <<< 1 = ty ++ 0#1 := by decide

/-- Settles O9: each row is a reply word with bit 12 clear, and the type code tells its kind. -/
theorem edtRepliesAreRead : Obligations.EdtRepliesAreRead := by
  intro s raw crc i type kind h
  have hrow (ty : BitVec 3) (hexec : exec i s = .next (s.retDecoded (readReply (replyWord ty 0#1 raw crc))))
      (htype : type = ty ++ 0#1)
      (hkind : kind = if ty = 1#3 then .edtTemperature else if ty = 2#3 then .edtVoltage
        else if ty = 3#3 then .edtCurrent else .edtOther) :
      (nibbleXor (edtPayload type raw) = crc →
        exec i s = .next (returned s (.telemetry (some
          { kind := kind, payload12 := edtPayload type raw, crc4 := crc, value := raw.toNat })))) ∧
      (nibbleXor (edtPayload type raw) ≠ crc → exec i s = .next (decodeFailed s)) := by
    obtain ⟨hgood, hbad⟩ := retDecoded_edt s ty raw crc
    rw [edtKind_edtPayload, ← hkind] at hgood
    rw [htype, hexec]
    exact ⟨fun hcrc => congrArg _ (hgood hcrc), fun hcrc => congrArg _ (hbad hcrc)⟩
  rcases h with ⟨rfl, rfl, rfl⟩ | ⟨rfl, rfl, rfl⟩ | ⟨rfl, rfl, rfl⟩ | ⟨ty, rfl, hwf, rfl, rfl⟩
  · exact hrow 1#3 rfl rfl rfl
  · exact hrow 2#3 rfl rfl rfl
  · exact hrow 3#3 rfl rfl rfl
  · obtain ⟨h1, h2, h3⟩ : ty ≠ 1#3 ∧ ty ≠ 2#3 ∧ ty ≠ 3#3 := by simpa [Instr.wf] using hwf
    exact hrow ty rfl (setWidth_shiftLeft_eq_append ty) (by simp [h1, h2, h3])

/-! ### The NRZI word and GCR codes -/

theorem exec_nrziWord (lead : Bit) (levels : U20) (s : State) :
    exec (.nrziWord lead levels) s = .next (returned s (.u20 (nrziToGcr (nrziWord lead levels)))) := rfl

theorem nrziWord_eq_append (lead : Bit) (levels : U20) : nrziWord lead levels = lead ++ levels :=
  (BitVec.setWidth_append_eq_shiftLeft_setWidth_or (w'' := 21)).symm.trans (BitVec.setWidth_eq _)

/-- A bit of the GCR word is the XOR of two neighbours of the NRZI word. -/
theorem nrziToGcr_getLsbD (n21 : U21) {i : Nat} (hi : i < 20) :
    (nrziToGcr n21).getLsbD i = (n21.getLsbD i ^^ n21.getLsbD (i + 1)) := by
  rw [nrziToGcr, BitVec.getLsbD_setWidth, BitVec.getLsbD_xor, BitVec.getLsbD_ushiftRight, Nat.add_comm]
  simp [hi]

/-- Complementing every level changes no difference of two neighbours. -/
theorem nrziToGcr_not (n21 : U21) : nrziToGcr (~~~n21) = nrziToGcr n21 := by
  apply BitVec.eq_of_getLsbD_eq
  intro i hi
  rw [nrziToGcr_getLsbD _ hi, nrziToGcr_getLsbD _ hi, BitVec.getLsbD_not, BitVec.getLsbD_not]
  simp [show i < 21 by omega, show i + 1 < 21 by omega]

/-- Settles O10, on the word as its lead bit followed by its levels. -/
theorem nrziWordIsDifferentiallyDecoded : Obligations.NrziWordIsDifferentiallyDecoded := by
  intro s lead levels
  refine ⟨_, exec_nrziWord lead levels s, ?_, fun i hi => ?_, ?_⟩
  · have hnot : nrziWord (~~~lead) (~~~levels) = ~~~nrziWord lead levels := by
      rw [nrziWord_eq_append, nrziWord_eq_append, BitVec.not_append]
    rw [exec_nrziWord, hnot, nrziToGcr_not]
  · rw [nrziToGcr_getLsbD _ (by omega), nrziWord_eq_append, BitVec.getLsbD_append, BitVec.getLsbD_append,
      if_pos (by omega), if_pos (by omega)]
  · rw [nrziToGcr_getLsbD _ (by omega), nrziWord_eq_append, BitVec.getLsbD_append, BitVec.getLsbD_append,
      if_pos (by omega), if_neg (by omega)]

/-- A GCR row is the lookup of the code that decodes to it. -/
theorem exec_of_decodeGcr5 {code : U5} {i : Instr} (h : decodeGcr5 code = .ok i) (s : State) :
    exec i s = .next (lookUpCode code s) := by
  have hcode : code = BitVec.ofNat 5 code.toNat := by simp
  unfold decodeGcr5 at h
  split at h
  case h_17 => cases h
  all_goals
    rw [‹code.toNat = _›] at hcode
    subst hcode
    cases h
    rfl

theorem decodeGcr5_error {code : U5} {why : Reject} (h : decodeGcr5 code = .error why) : why = .noGcrRow code := by
  unfold decodeGcr5 at h
  split at h
  case h_17 => cases h; rfl
  all_goals cases h

theorem exec_gcrRow {code : U5} {i : Instr} (h : decodeGcr5 code = .ok i) (s : State) :
    exec i s = .next (returned s (.nibble (s.cfg.gcrTable[code.toNat]?.getD none))) := by
  rw [exec_of_decodeGcr5 h, lookUpCode_eq_returned]

/-- Settles O11: each row of the list is the decoding of its code, and its nibble is the default table's entry. -/
theorem gcrRowsLookUpTheirNibble : Obligations.GcrRowsLookUpTheirNibble := by
  intro s i code nibble hmem
  obtain ⟨hlt, hdecode, hentry⟩ : code < 32 ∧ decodeGcr5 (BitVec.ofNat 5 code) = .ok i ∧
      defaultGcrTable[code]?.getD none = some nibble := by
    simp only [List.mem_cons, List.not_mem_nil, or_false, Prod.mk.injEq] at hmem
    rcases hmem with ⟨rfl, rfl, rfl⟩ | ⟨rfl, rfl, rfl⟩ | ⟨rfl, rfl, rfl⟩ | ⟨rfl, rfl, rfl⟩ | ⟨rfl, rfl, rfl⟩ |
      ⟨rfl, rfl, rfl⟩ | ⟨rfl, rfl, rfl⟩ | ⟨rfl, rfl, rfl⟩ | ⟨rfl, rfl, rfl⟩ | ⟨rfl, rfl, rfl⟩ | ⟨rfl, rfl, rfl⟩ |
      ⟨rfl, rfl, rfl⟩ | ⟨rfl, rfl, rfl⟩ | ⟨rfl, rfl, rfl⟩ | ⟨rfl, rfl, rfl⟩ | ⟨rfl, rfl, rfl⟩ <;> decide
  have hexec := exec_gcrRow hdecode s
  rw [BitVec.toNat_ofNat, Nat.mod_eq_of_lt hlt] at hexec
  refine ⟨hexec, fun htable => ?_⟩
  rw [hexec, htable, hentry]

/-- Settles O58: a code with a row is run, one without is rejected into the same lookup. -/
theorem everyGcrCodeIsLookedUp : Obligations.EveryGcrCodeIsLookedUp := by
  refine ⟨fun s code rest hc ha => ?_, by decide⟩
  rw [← lookUpCode_eq_returned code { s with agenda := rest }]
  cases hd : decodeGcr5 code with
  | error why =>
    rw [step_of_undecodable hc ha hd, decodeGcr5_error hd]
    rfl
  | ok i =>
    have hplain (k : InstId) : i ≠ .schedBegin k ∧ i ≠ .schedEnd k := by
      obtain ⟨-, henc⟩ := decodeGcr5_encode code i hd
      constructor <;> (rintro rfl; cases henc)
    rcases ha with ha | ha
    · rw [step_of_run hc ha hd, exec_of_decodeGcr5 hd]
    · rw [step_of_start hc ha hd hplain, exec_of_decodeGcr5 hd]

end Sys2Proof.Proofs.WireFormats

/-! PROOFS. The throttle map and the special code (rules R110, R111): the clamped throttle lies in [0, 1], so the rounded code lies in
[MIN_CODE, 2047] and fits its field. -/

namespace Sys2Proof.Proofs.Throttle
open Sys2Proof Sys2Proof.Machine Sys2Proof.Proofs.Step

/-! ### Rounding and clamping -/

theorem roundHalfUp_eq_floor (q : Rat) : roundHalfUp q = ⌊q + 1 / 2⌋₊ := rfl

theorem roundHalfUp_mono {q r : Rat} (h : q ≤ r) : roundHalfUp q ≤ roundHalfUp r := by
  rw [roundHalfUp_eq_floor, roundHalfUp_eq_floor]
  exact Nat.floor_mono (by linarith)

theorem roundHalfUp_natCast (n : Nat) : roundHalfUp n = n := by
  rw [roundHalfUp_eq_floor, Nat.floor_eq_iff (by positivity)]
  constructor <;> norm_num

/-- The nearest integer, ties upward. -/
theorem roundHalfUp_spec {q : Rat} (h : 0 ≤ q) :
    (roundHalfUp q : Rat) ≤ q + 1 / 2 ∧ q + 1 / 2 < (roundHalfUp q : Rat) + 1 := by
  rw [roundHalfUp_eq_floor]
  exact ⟨Nat.floor_le (by positivity), Nat.lt_floor_add_one _⟩

theorem clampThrottle_finite_of_nonpos {q : Rat} (h : q ≤ 0) : clampThrottle (.finite q) = 0 := by
  rcases h.lt_or_eq with h | rfl
  · exact if_pos h
  · rfl

theorem clampThrottle_finite_of_one_le {q : Rat} (h : 1 ≤ q) : clampThrottle (.finite q) = 1 := by
  rw [clampThrottle, if_neg (by linarith)]
  split
  · rfl
  · linarith

theorem clampThrottle_finite_of_mem {q : Rat} (h0 : 0 ≤ q) (h1 : q ≤ 1) : clampThrottle (.finite q) = q := by
  rw [clampThrottle, if_neg (by linarith), if_neg (by linarith)]

theorem clampThrottle_mem (x : ThrottleInput) : 0 ≤ clampThrottle x ∧ clampThrottle x ≤ 1 := by
  cases x with
  | nan | negInf => exact ⟨le_rfl, zero_le_one⟩
  | posInf => exact ⟨zero_le_one, le_rfl⟩
  | finite q =>
    rcases le_or_gt q 0 with h | h
    · rw [clampThrottle_finite_of_nonpos h]
      exact ⟨le_rfl, zero_le_one⟩
    · rcases le_or_gt 1 q with h' | h'
      · rw [clampThrottle_finite_of_one_le h']
        exact ⟨zero_le_one, le_rfl⟩
      · rw [clampThrottle_finite_of_mem h.le h'.le]
        exact ⟨h.le, h'.le⟩

theorem clampThrottle_mono {q r : Rat} (h : q ≤ r) : clampThrottle (.finite q) ≤ clampThrottle (.finite r) := by
  rcases le_or_gt q 0 with hq | hq
  · rw [clampThrottle_finite_of_nonpos hq]
    exact (clampThrottle_mem _).1
  · rcases le_or_gt 1 r with hr | hr
    · rw [clampThrottle_finite_of_one_le hr]
      exact (clampThrottle_mem _).2
    · rw [clampThrottle_finite_of_mem hq.le (by linarith), clampThrottle_finite_of_mem (by linarith) hr.le]
      exact h

/-! ### The code -/

section
variable {c : Config}

theorem roundHalfUp_span_le (c : Config) (x : ThrottleInput) :
    roundHalfUp (clampThrottle x * (throttleSpan c : Rat)) ≤ throttleSpan c := by
  calc roundHalfUp (clampThrottle x * (throttleSpan c : Rat)) ≤ roundHalfUp (throttleSpan c : Rat) :=
        roundHalfUp_mono (mul_le_of_le_one_left (by positivity) (clampThrottle_mem x).2)
    _ = throttleSpan c := roundHalfUp_natCast _

variable (hc : configWf c = true)
include hc

theorem minCode_add_span : minCode c + throttleSpan c = 2047 := by
  obtain ⟨-, hoffset, -⟩ := (configWf_iff c).mp hc
  rw [throttleSpan, minCode]
  omega

/-- The code fits its field. -/
theorem encodeThrottle_toNat (x : ThrottleInput) :
    (encodeThrottle c x).toNat = minCode c + roundHalfUp (clampThrottle x * (throttleSpan c : Rat)) := by
  have hspan := minCode_add_span hc
  have hround := roundHalfUp_span_le c x
  rw [encodeThrottle, BitVec.toNat_ofNat]
  exact Nat.mod_eq_of_lt (by omega)

theorem encodeThrottle_bounds (x : ThrottleInput) :
    48 + c.idleOffset ≤ (encodeThrottle c x).toNat ∧ (encodeThrottle c x).toNat ≤ 2047 := by
  have hspan := minCode_add_span hc
  have hround := roundHalfUp_span_le c x
  rw [encodeThrottle_toNat hc]
  exact ⟨Nat.le_add_right .., by omega⟩

theorem encodeThrottle_of_clamp_zero {x : ThrottleInput} (h : clampThrottle x = 0) :
    (encodeThrottle c x).toNat = 48 + c.idleOffset := by
  rw [encodeThrottle_toNat hc, h, zero_mul]
  exact congrArg _ (roundHalfUp_natCast 0)

theorem encodeThrottle_of_clamp_one {x : ThrottleInput} (h : clampThrottle x = 1) : (encodeThrottle c x).toNat = 2047 := by
  rw [encodeThrottle_toNat hc, h, one_mul, roundHalfUp_natCast, minCode_add_span hc]

/-- Between the endpoints the code is the nearest integer to the linear map. -/
theorem encodeThrottle_linear {q : Rat} (h0 : 0 ≤ q) (h1 : q ≤ 1) :
    ((encodeThrottle c (.finite q)).toNat : Rat) - 48 - c.idleOffset ≤ q * (1999 - c.idleOffset) + 1 / 2 ∧
    q * (1999 - c.idleOffset) + 1 / 2 < ((encodeThrottle c (.finite q)).toNat : Rat) - 48 - c.idleOffset + 1 := by
  have hspan : (throttleSpan c : Rat) = 1999 - c.idleOffset := by
    have h := congrArg (Nat.cast (R := Rat)) (minCode_add_span hc)
    rw [minCode] at h
    push_cast at h
    linarith
  obtain ⟨hlow, hhigh⟩ := roundHalfUp_spec (mul_nonneg h0 (Nat.cast_nonneg (throttleSpan c)))
  rw [encodeThrottle_toNat hc, clampThrottle_finite_of_mem h0 h1, minCode]
  rw [hspan] at hlow hhigh ⊢
  push_cast
  constructor <;> linarith

end

/-! ### The obligations -/

theorem exec_encodeThrottle (x : ThrottleInput) (s : State) :
    exec (.encodeThrottle x) s = .next (Claims.returned s (.u11 (encodeThrottle s.cfg x))) := rfl

/-- Settles O12: the endpoints by the clamp, between them the half-up rounding. -/
theorem encodeThrottleMapsLinearly : Obligations.EncodeThrottleMapsLinearly := by
  intro s x hc
  obtain ⟨hlow, hhigh⟩ := encodeThrottle_bounds hc x
  refine ⟨_, exec_encodeThrottle x s, hlow, hhigh, ?_, ?_, ?_⟩
  · rintro (rfl | rfl) <;> exact encodeThrottle_of_clamp_zero hc rfl
  · rintro rfl
    exact encodeThrottle_of_clamp_one hc rfl
  · rintro q rfl
    exact ⟨fun h => encodeThrottle_of_clamp_zero hc (clampThrottle_finite_of_nonpos h),
      fun h => encodeThrottle_of_clamp_one hc (clampThrottle_finite_of_one_le h), encodeThrottle_linear hc⟩

/-- Settles O13: clamping and rounding are monotonic. -/
theorem encodeThrottleIsMonotonic : Obligations.EncodeThrottleIsMonotonic := by
  intro s q r hc h
  refine ⟨_, _, exec_encodeThrottle _ s, exec_encodeThrottle _ s, ?_⟩
  rw [encodeThrottle_toNat hc, encodeThrottle_toNat hc]
  exact Nat.add_le_add_left (roundHalfUp_mono (mul_le_mul_of_nonneg_right (clampThrottle_mono h) (by positivity))) _

/-- Settles O14: the clamped code fits its field. -/
theorem encodeSpecialClamps : Obligations.EncodeSpecialClamps := by
  refine fun s code => ⟨encodeSpecial code, rfl, ?_⟩
  rw [encodeSpecial, BitVec.toNat_ofNat]
  omega

end Sys2Proof.Proofs.Throttle

/-! PROOFS. The waveform transcoder (rules R130 to R134): the loop over the runs is the first 21 of the bits the runs stand for. And
what the synthetic lead bit excludes (rule R162). -/

namespace Sys2Proof.Proofs.Transcoder
open Sys2Proof Sys2Proof.Machine Sys2Proof.Proofs.PacketCodec Sys2Proof.Proofs.Step Sys2Proof.Proofs.BDShotDecoder Sys2Proof.Proofs.WireFormats
open Claims (expandRuns returned)

/-! ### Pulses -/

theorem exec_frameToPulses (w : U16) (s : State) :
    exec (.frameToPulses w) s = .next (returned s (.pulses (frameToPulses s.cfg w))) := rfl

theorem pulseOf_ticks {c : Config} (hc : configWf c = true) (b : Bool) :
    (pulseOf c b).highTicks.toNat = (if b then 3 * c.totalBitTicks / 4 else 3 * c.totalBitTicks / 8) ∧
    (pulseOf c b).highTicks.toNat + (pulseOf c b).lowTicks.toNat = c.totalBitTicks := by
  obtain ⟨-, -, -, -, -, hmax, -⟩ := (configWf_iff c).mp hc
  have hhigh : (if b then high1 c else high0 c) ≤ c.totalBitTicks := by
    unfold high1 high0
    split <;> omega
  have hhighTicks : (pulseOf c b).highTicks.toNat = if b then high1 c else high0 c := by
    rw [pulseOf, BitVec.toNat_ofNat]
    exact Nat.mod_eq_of_lt (by omega)
  have hlowTicks : (pulseOf c b).lowTicks.toNat = c.totalBitTicks - if b then high1 c else high0 c := by
    rw [pulseOf, BitVec.toNat_ofNat]
    exact Nat.mod_eq_of_lt (by omega)
  rw [hhighTicks, hlowTicks]
  exact ⟨rfl, by omega⟩

/-- Settles O19, bit by bit. -/
theorem frameToPulsesIsMsbFirst : Obligations.FrameToPulsesIsMsbFirst := by
  refine fun s w hc => ⟨_, exec_frameToPulses w s, by simp [frameToPulses], fun k hk => ?_⟩
  exact ⟨_, by simp [frameToPulses, hk], pulseOf_ticks hc _⟩

/-! ### The run sequence -/

/-- Settles O20, by the recursion of `interleave`. -/
theorem runSequenceAlternates : Obligations.RunSequenceAlternates := by
  intro high low
  induction high, low using interleave.induct with
  | case1 low => simp [interleave]
  | case2 h hs =>
    refine ⟨by simp [interleave]; omega, fun i => ⟨fun hi => ?_, fun hi => ?_⟩⟩
    · obtain rfl : i = 0 := by simp [interleave] at hi; omega
      rfl
    · simp [interleave] at hi
  | case3 h hs l ls ih =>
    obtain ⟨hlen, hnth⟩ := ih
    refine ⟨by simp [interleave, hlen]; omega, fun i => ?_⟩
    cases i with
    | zero => exact ⟨fun _ => rfl, fun _ => rfl⟩
    | succ i =>
      obtain ⟨hhigh, hlow⟩ := hnth i
      simp only [interleave, List.length_cons, Nat.mul_add, Nat.mul_one, List.getElem?_cons_succ]
      exact ⟨fun hi => hhigh (by omega), fun hi => hlow (by omega)⟩

/-! ### Bits from runs -/

/-- What lies past the cut does not matter. -/
theorem take_append_take {α : Type} (m : Nat) (acc l rest : List α) :
    (acc ++ (l.take (m - acc.length) ++ rest)).take m = (acc ++ (l ++ rest)).take m := by
  have hcut : m - acc.length - min (m - acc.length) l.length = m - acc.length - l.length := by omega
  simp only [List.take_append, List.take_take, List.length_take, Nat.min_self, hcut]

/-- The loop of rule R134 takes what is missing to 21 bits of the bits the runs stand for. -/
theorem collectBits_eq_take (rbt : Nat) (runs : List Nat) (pol : Bool) (acc : List Bool) (h : acc.length ≤ 21) :
    collectBits rbt runs pol acc = (acc ++ expandRuns rbt pol runs).take 21 := by
  induction runs generalizing pol acc with
  | nil => rw [collectBits, expandRuns, List.append_nil, List.take_of_length_le h]
  | cons r rest ih =>
    rw [collectBits, expandRuns]
    split
    · next hfull => rw [← hfull, List.take_left']; rfl
    · rw [ih _ _ (by simp; omega), Nat.min_comm, ← List.take_replicate, List.append_assoc]
      exact take_append_take ..

theorem bitsToNat_append_singleton (l : List Bool) (b : Bool) : bitsToNat (l ++ [b]) = 2 * bitsToNat l + b.toNat := by
  rw [bitsToNat, List.foldl_append]
  rfl

/-- The first bit is the most significant. -/
theorem testBit_bitsToNat (l : List Bool) {i : Nat} (h : i < l.length) :
    (bitsToNat l).testBit (l.length - 1 - i) = l.getD i false := by
  induction l using List.reverseRecOn with
  | nil => cases h
  | append_singleton l b ih =>
    rw [bitsToNat_append_singleton, List.length_append, List.length_singleton, Nat.add_sub_cancel]
    rcases Nat.lt_or_eq_of_le (Nat.le_of_lt_succ (by simpa using h)) with hlt | rfl
    · have hpos : l.length - i = (l.length - 1 - i) + 1 := by omega
      rw [hpos, Nat.testBit_succ]
      have hb := Bool.toNat_lt b
      have hdiv : (2 * bitsToNat l + b.toNat) / 2 = bitsToNat l := by omega
      rw [hdiv, ih hlt]
      simp [List.getD, List.getElem?_append_left hlt]
    · rw [Nat.sub_self]
      cases b <;> simp [List.getD]

theorem exec_runsToBits (high low : List Nat) (rbt : Nat) (s : State) :
    exec (.runsToBits high low rbt) s = .next (returned s (.nrzi (runsToBits s.cfg high low rbt))) := rfl

/-- All the bits a capture stands for: the lead bit, if the mode has one, and those of the runs. -/
def captureBits (mode : LeadBitMode) (rbt : Nat) (high low : List Nat) : List Bool :=
  leadBits mode ++ expandRuns rbt true (interleave high low)

section
variable {c : Config} {high low : List Nat} {rbt : Nat}

theorem runsToBits_eq (hrbt : rbt ≠ 0) :
    runsToBits c high low rbt =
      if (captureBits c.leadBitMode rbt high low).length < 21 then none
      else some (BitVec.ofNat 21 (bitsToNat ((captureBits c.leadBitMode rbt high low).take 21))) := by
  have hlead : (leadBits c.leadBitMode).length ≤ 21 := by cases c.leadBitMode <;> simp [leadBits]
  have hlength (l : List Bool) : (l.take 21).length < 21 ↔ l.length < 21 := by
    rw [List.length_take]
    omega
  rw [runsToBits, if_neg hrbt, collectBits_eq_take _ _ _ _ hlead]
  exact if_congr (hlength _) rfl rfl

/-- A result is the first 21 of the bits, the first most significant. -/
theorem runsToBits_eq_some {n21 : U21} (h : runsToBits c high low rbt = some n21) :
    21 ≤ (captureBits c.leadBitMode rbt high low).length ∧
    ∀ i < 21, n21.getLsbD (20 - i) = (captureBits c.leadBitMode rbt high low).getD i false := by
  have hrbt : rbt ≠ 0 := by
    rintro rfl
    rw [runsToBits, if_pos rfl] at h
    cases h
  rw [runsToBits_eq hrbt] at h
  split at h
  · cases h
  · next hlen =>
    cases h
    have htake : ((captureBits c.leadBitMode rbt high low).take 21).length = 21 := by
      rw [List.length_take]
      omega
    refine ⟨by omega, fun i hi => ?_⟩
    have hbit := testBit_bitsToNat ((captureBits c.leadBitMode rbt high low).take 21) (i := i) (by omega)
    rw [htake] at hbit
    rw [BitVec.getLsbD_ofNat, hbit]
    simp [List.getD, hi, show 20 - i < 21 by omega]

/-- Settles O21: the bits of the statement are the bits of the capture. -/
theorem runsToBitsTakesTwentyOneBits : Obligations.RunsToBitsTakesTwentyOneBits := by
  refine fun s high low rbt => ⟨_, exec_runsToBits high low rbt s, fun hrbt => if_pos hrbt, fun hrbt bits hbits => ?_⟩
  obtain rfl : bits = captureBits s.cfg.leadBitMode rbt high low := by
    rw [hbits]
    cases s.cfg.leadBitMode <;> rfl
  refine ⟨fun hlen => ?_, fun hlen => ?_⟩
  · rw [runsToBits_eq hrbt, if_pos hlen]
  · have hsome := runsToBits_eq (c := s.cfg) (high := high) (low := low) hrbt
    rw [if_neg (by omega)] at hsome
    exact ⟨_, hsome, (runsToBits_eq_some hsome).2⟩

/-! ### What a decoded reply is -/

/-- A reply that decodes: its word, its four nibbles, and the classification of the payload and the CRC received. -/
theorem decodeReply_eq_some {f : TelemetryFrame} (h : decodeReply c high low rbt = some f) :
    ∃ n21 n, runsToBits c high low rbt = some n21 ∧ gcrToNibbles c (nrziToGcr n21) = some n ∧
      n.n3 ^^^ n.n2 ^^^ n.n1 ^^^ n.n0 = 0#4 ∧ f = classify (n.n3 ++ n.n2 ++ n.n1) n.n0 := by
  rw [decodeReply] at h
  obtain ⟨n21, hbits, h⟩ := Option.bind_eq_some_iff.mp h
  obtain ⟨n, hnibbles, h⟩ := Option.bind_eq_some_iff.mp h
  rw [readReply_assembleReply] at h
  split at h
  · next hcrc =>
    cases h
    exact ⟨n21, n, hbits, hnibbles, hcrc, rfl⟩
  · cases h

theorem decodeReply_decoded {f : TelemetryFrame} (h : decodeReply c high low rbt = some f) : f.decoded := by
  obtain ⟨n21, n, -, -, hcrc, rfl⟩ := decodeReply_eq_some h
  refine ⟨?_, ?_⟩
  · rw [classify_payload12, classify_crc4, crc4_append, ← BitVec.xor_eq_zero_iff, hcrc]
  · rw [classify_payload12, classify_crc4]

/-! ### The synthetic lead bit (rule R162) -/

/-- Behind the made-up 0 the first run is HIGH, so the two first levels differ. -/
theorem first_levels_of_synthetic {n21 : U21} (hmode : c.leadBitMode = .synthetic)
    (h : runsToBits c high low rbt = some n21) : n21.getLsbD 20 = false ∧ n21.getLsbD 19 = true := by
  obtain ⟨hlen, hbits⟩ := runsToBits_eq_some h
  have h0 := hbits 0 (by omega)
  have h1 := hbits 1 (by omega)
  rw [hmode] at hlen h0 h1
  refine ⟨h0, h1.trans ?_⟩
  rw [captureBits] at hlen ⊢
  cases hruns : interleave high low with
  | nil =>
    rw [hruns] at hlen
    simp [leadBits, expandRuns] at hlen
  | cons r rest =>
    obtain ⟨m, hm⟩ : ∃ m, max 1 ((2 * r + rbt) / (2 * rbt)) = m + 1 := ⟨_, (Nat.sub_add_cancel (Nat.le_max_left ..)).symm⟩
    rw [expandRuns, hm, List.replicate_succ]
    rfl

/-- So the first group's highest bit is 1. -/
theorem first_group_of_synthetic {n21 : U21} (hmode : c.leadBitMode = .synthetic)
    (h : runsToBits c high low rbt = some n21) : ((nrziToGcr n21).extractLsb' (5 * 3) 5).getLsbD 4 = true := by
  obtain ⟨h20, h19⟩ := first_levels_of_synthetic hmode h
  rw [BitVec.getLsbD_extractLsb', nrziToGcr_getLsbD _ (by omega), h19, h20]
  rfl

end

/-- The nibbles of the default table's codes whose highest bit is 1. -/
theorem defaultGcrTable_high : ∀ code : U5, code.getLsbD 4 = true → ∀ n, defaultGcrTable[code.toNat]?.getD none = some n →
    n.toNat ∉ [0x9, 0xA, 0xB, 0xD, 0xE, 0xF] := by
  decide

theorem decodeReply_of_exec_decode {s : State} {high low : List Nat} {rbt : Nat} {f : TelemetryFrame}
    (h : exec (.decode high low rbt) s = .next (returned s (.telemetry (some f)))) :
    decodeReply s.cfg high low rbt = some f := by
  rw [exec_decode] at h
  have hresults := congrArg State.results (Host.Outcome.next.inj h)
  cases hd : decodeReply s.cfg high low rbt with
  | none => simp [hd, Claims.decodeFailed, returned] at hresults
  | some f' => simpa [hd, returned] using hresults

/-- Settles O24: the first nibble's code has its highest bit set. -/
theorem syntheticLeadBitExcludesFirstNibbles : Obligations.SyntheticLeadBitExcludesFirstNibbles := by
  intro s high low rbt f hmode htable h
  obtain ⟨n21, n, hbits, hnibbles, -, rfl⟩ := decodeReply_eq_some (decodeReply_of_exec_decode h)
  have hfirst := ((gcrToNibbles_eq_some_iff ..).mp hnibbles).1
  rw [gcrLookup_eq_getElem?, htable] at hfirst
  have hpayload : (n.n3 ++ n.n2 ++ n.n1 : U12).toNat / 256 = n.n3.toNat := by
    rw [toNat_append_eq, toNat_append_eq]
    omega
  rw [classify_payload12, hpayload]
  exact defaultGcrTable_high _ (first_group_of_synthetic hmode hbits) _ hfirst

end Sys2Proof.Proofs.Transcoder

/-! PROOFS. `begin` and `end` (rules R190, R205): each part of them leaves the state with the pool, one instance and the results
changed and nothing else, and taken one at a time the parts make up the whole operation. -/

namespace Sys2Proof.Proofs.Lifecycle
open Sys2Proof Sys2Proof.Machine Sys2Proof.Laws Sys2Proof.Proofs.ChannelAllocator
open Claims (LowestFree AllTaken PartStep givenBack afterConfigure afterTransmit restarted configureAnswer transmitAnswer)

/-! ### A state with one instance, the pool and the results changed -/

/-- The pool is `p`, instance `k` is `i`, and the results `rs` have joined the results. -/
def part (s : State) (k : InstId) (i : Instance) (p : List Bool) (rs : List Result) : State :=
  { (s.setPool p).setInst k i with results := s.results ++ rs }

section
variable (s : State) (k : InstId) (i j : Instance) (p q : List Bool) (rs rs' : List Result) (r : Result) (l : LeaseId)

@[simp] theorem part_pool : (part s k i p rs).pool = p := rfl
@[simp] theorem part_results : (part s k i p rs).results = s.results ++ rs := rfl
@[simp] theorem part_instCfg (k' : InstId) : (part s k i p rs).instCfg k' = s.instCfg k' := rfl
@[simp] theorem part_lease : (part s k i p rs).lease l = s.lease l := rfl
@[simp] theorem part_inst_same : (part s k i p rs).inst k = i := inst_setInst_same (s.setPool p) k i

theorem part_inst_other {k k' : InstId} (h : k' ≠ k) : (part s k i p rs).inst k' = s.inst k' :=
  inst_setInst_other (s.setPool p) k k' i h

theorem setPool_setInst_eq_part : (s.setPool p).setInst k i = part s k i p [] :=
  congrArg (fun rs => { (s.setPool p).setInst k i with results := rs }) (List.append_nil s.results).symm

theorem setInst_eq_part : s.setInst k i = part s k i s.pool [] := setPool_setInst_eq_part s k i s.pool

theorem part_setPool : (part s k i p rs).setPool q = part s k i q rs := rfl

@[simp] theorem part_ret : (part s k i p rs).ret r = part s k i p (rs ++ [r]) :=
  congrArg (fun rs => { (s.setPool p).setInst k i with results := rs }) (List.append_assoc s.results rs [r])

@[simp] theorem part_setInst : (part s k i p rs).setInst k j = part s k j p rs :=
  congrArg (fun t : State => { t with results := s.results ++ rs }) (setInst_setInst (s.setPool p) k i j)

/-- The later of two such changes stands, and the results of both. -/
@[simp] theorem part_part : part (part s k i p rs) k j q rs' = part s k j q (rs ++ rs') := by
  rw [part, part_setPool, part_setInst, part_results, List.append_assoc]
  rfl

theorem partStep_part : PartStep s (part s k i p rs) k i p rs :=
  ⟨rfl, part_inst_same .., fun _ hne => part_inst_other _ _ _ _ hne, fun _ => rfl, rfl, rfl, rfl, rfl, rfl⟩

end

/-! ### The engine's answers -/

theorem nextAnswer_eq {α : Type} (free : α) (l : List α) : nextAnswer free l = (l.headD free, l.tail) := by
  cases l <;> rfl

theorem configure_eq (k : InstId) (i : Instance) :
    i.configure k = (configureAnswer k i, afterConfigure k i.tx i.rx i) := by
  simp only [Instance.configure, Instance.logCall, nextAnswer_eq, configureAnswer, afterConfigure]

theorem sendFrame_eq_afterTransmit (c : Config) (k : InstId) (w : U16) (i : Instance) :
    Instance.sendFrame c k w i = (transmitAnswer k i, afterTransmit c k w i) := by
  have hsent : sentAnswer k i = transmitAnswer k i := by rw [sentAnswer, nextAnswer_eq, transmitAnswer]
  simp only [sendFrame_eq, hsent, Instance.transmit, Instance.logCall, nextAnswer_eq, afterTransmit]

theorem forcedTransmit_eq (c : Config) (k : InstId) (i : Instance) :
    Instance.forcedTransmit c k i = afterTransmit c k (buildFrame c.idleCode 0#1) i := by
  rw [Instance.forcedTransmit, sendFrame_eq_afterTransmit]

theorem restart_eq (b : Bool) (i : Instance) : i.restart b = restarted b i.tx i.rx i := rfl

/-! ### The parts -/

section
variable (s : State) (k : InstId) (why : Diag)

theorem beginTx_eq :
    beginTx k s =
      (let r := leaseAcquire (s.instCfg k).txRange.1 (s.instCfg k).txRange.2 (s.inst k).tx s.pool
       (r.ok, part s k { s.inst k with tx := r.lease } r.pool [])) := by
  simp only [beginTx, setPool_setInst_eq_part]

theorem beginRx_eq :
    beginRx k s =
      (let r := leaseAcquire (s.instCfg k).rxRange.1 (s.instCfg k).rxRange.2 (s.inst k).rx s.pool
       (r.ok, part s k { s.inst k with rx := r.lease } r.pool [])) := by
  simp only [beginRx, setPool_setInst_eq_part]

theorem beginConfigure_eq :
    beginConfigure k s =
      (configureAnswer k (s.inst k), part s k (afterConfigure k (s.inst k).tx (s.inst k).rx (s.inst k)) s.pool []) := by
  simp only [beginConfigure, configure_eq, setInst_eq_part]

theorem beginCommit_eq :
    beginCommit k s = part s k (restarted true (s.inst k).tx (s.inst k).rx (s.inst k)) s.pool [.bool true] := by
  rw [beginCommit, restart_eq, setInst_eq_part, part_ret, List.nil_append]

theorem beginFail_eq :
    beginFail k why s =
      part s k { s.inst k with diagLog := (s.inst k).diagLog ++ [why] } s.pool [.bool false] := by
  rw [beginFail, Instance.diag, setInst_eq_part, part_ret, List.nil_append]

theorem releaseTx_eq :
    releaseTx k s = part s k { s.inst k with tx := { held := none } } (givenBack (s.inst k).tx s.pool) [] := by
  simp only [releaseTx, leaseRelease_eq_givenBack, setPool_setInst_eq_part]

theorem releaseRx_eq :
    releaseRx k s = part s k { s.inst k with rx := { held := none } } (givenBack (s.inst k).rx s.pool) [] := by
  simp only [releaseRx, leaseRelease_eq_givenBack, setPool_setInst_eq_part]

theorem endTransmit_eq :
    endTransmit k s =
      part s k (afterTransmit (s.instCfg k) k (buildFrame (s.instCfg k).idleCode 0#1) (s.inst k)) s.pool [] := by
  rw [endTransmit, forcedTransmit_eq, setInst_eq_part]

theorem endReset_eq :
    endReset k s = part s k (restarted false (s.inst k).tx (s.inst k).rx (s.inst k)) s.pool [.unit] := by
  rw [endReset, restart_eq, setInst_eq_part, part_ret, List.nil_append]

theorem setBusy_eq (b : Option Phase) : s.setBusy k b = part s k { s.inst k with busy := b } s.pool [] := by
  rw [State.setBusy, setInst_eq_part]

end

/-! ### A lease's acquire, decided -/

theorem lowestFree_or_allTaken (p : List Bool) (first last : Nat) :
    (∃ a, LowestFree p first last a) ∨ AllTaken p first last := by
  cases h : scanFree first last p 0 with
  | some a => exact .inl ⟨a, scanFree_eq_some.mp h⟩
  | none => exact .inr (scanFree_eq_none.mp h)

theorem leaseAcquire_of_lowestFree {first last a : Nat} {L : Lease} {p : List Bool}
    (h : LowestFree (givenBack L p) first last a) :
    leaseAcquire first last L p = { ok := true, lease := { held := some a }, pool := (givenBack L p).set a true } := by
  rw [leaseAcquire, poolAcquire, leaseRelease_eq_givenBack, scanFree_eq_some.mpr h]

theorem leaseAcquire_of_allTaken {first last : Nat} {L : Lease} {p : List Bool}
    (h : AllTaken (givenBack L p) first last) :
    leaseAcquire first last L p = { ok := false, lease := { held := none }, pool := givenBack L p } := by
  rw [leaseAcquire, poolAcquire, leaseRelease_eq_givenBack, scanFree_eq_none.mpr h]

/-! ### What each resumed step leaves -/

/-- One step of the operation in flight on an instance `i` with the pool `p`: the instance, the pool and the results it leaves. -/
inductive Resumed (c : Config) (k : InstId) (i : Instance) (p : List Bool) : Instance → List Bool → List Result → Prop
  | beginTxTaken {a : Nat} (hb : i.busy = some .beginTx) (ha : LowestFree (givenBack i.tx p) c.txRange.1 c.txRange.2 a) :
      Resumed c k i p { i with tx := { held := some a }, busy := some (if c.bidir then .beginRx else .beginConfigure) }
        ((givenBack i.tx p).set a true) []
  | beginTxNone (hb : i.busy = some .beginTx) (ha : AllTaken (givenBack i.tx p) c.txRange.1 c.txRange.2) :
      Resumed c k i p
        { i with tx := { held := none }, busy := none, diagLog := i.diagLog ++ [.resourceExhausted] }
        (givenBack i.tx p) [.bool false]
  | beginRxTaken {a : Nat} (hb : i.busy = some .beginRx) (ha : LowestFree (givenBack i.rx p) c.rxRange.1 c.rxRange.2 a) :
      Resumed c k i p { i with rx := { held := some a }, busy := some .beginConfigure } ((givenBack i.rx p).set a true) []
  | beginRxNone (hb : i.busy = some .beginRx) (ha : AllTaken (givenBack i.rx p) c.rxRange.1 c.rxRange.2) :
      Resumed c k i p { i with rx := { held := none }, busy := some (.undoTx .resourceExhausted) } (givenBack i.rx p) []
  | configured (hb : i.busy = some .beginConfigure) (ha : configureAnswer k i = true) :
      Resumed c k i p { restarted true i.tx i.rx (afterConfigure k i.tx i.rx i) with busy := none } p [.bool true]
  | notConfigured (hb : i.busy = some .beginConfigure) (ha : configureAnswer k i = false) :
      Resumed c k i p { afterConfigure k i.tx i.rx i with busy := some (.undoRx .hardwareConfigFailed) } p []
  | undoRx {why : Diag} (hb : i.busy = some (.undoRx why)) :
      Resumed c k i p { i with rx := { held := none }, busy := some (.undoTx why) } (givenBack i.rx p) []
  | undoTx {why : Diag} (hb : i.busy = some (.undoTx why)) :
      Resumed c k i p { i with tx := { held := none }, busy := none, diagLog := i.diagLog ++ [why] }
        (givenBack i.tx p) [.bool false]
  | endTransmit (hb : i.busy = some .endTransmit) :
      Resumed c k i p { afterTransmit c k (buildFrame c.idleCode 0#1) i with busy := some .endRx } p []
  | endRx (hb : i.busy = some .endRx) :
      Resumed c k i p { i with rx := { held := none }, busy := some .endTx } (givenBack i.rx p) []
  | endTx (hb : i.busy = some .endTx) :
      Resumed c k i p { restarted false { held := none } i.rx i with busy := none } (givenBack i.tx p) [.unit]
  | endReset (hb : i.busy = some .endReset) :
      Resumed c k i p { restarted false i.tx i.rx i with busy := none } p [.unit]

variable {s : State} {k : InstId}

theorem resumeInst_of_idle (hb : (s.inst k).busy = none) : resumeInst k s = s := by rw [resumeInst, hb]

theorem resumeInst_of_busy {ph : Phase} (hb : (s.inst k).busy = some ph) :
    resumeInst k s = ((advance k ph s).1).setBusy k (advance k ph s).2 := by rw [resumeInst, hb]

/-- The step the relation describes is the step that is taken. -/
theorem resumeInst_eq_part {j : Instance} {p : List Bool} {rs : List Result}
    (h : Resumed (s.instCfg k) k (s.inst k) s.pool j p rs) : resumeInst k s = part s k j p rs := by
  cases h with
  | beginTxTaken hb ha =>
    rw [resumeInst_of_busy hb]
    simp [advance, beginTx_eq, leaseAcquire_of_lowestFree ha, setBusy_eq]
    rfl
  | beginTxNone hb ha =>
    rw [resumeInst_of_busy hb]
    simp [advance, beginTx_eq, leaseAcquire_of_allTaken ha, beginFail_eq, setBusy_eq]
  | beginRxTaken hb ha =>
    rw [resumeInst_of_busy hb]
    simp [advance, beginRx_eq, leaseAcquire_of_lowestFree ha, setBusy_eq]
  | beginRxNone hb ha =>
    rw [resumeInst_of_busy hb]
    simp [advance, beginRx_eq, leaseAcquire_of_allTaken ha, setBusy_eq]
  | configured hb ha =>
    rw [resumeInst_of_busy hb]
    simp [advance, beginConfigure_eq, ha, beginCommit_eq, setBusy_eq]
    rfl
  | notConfigured hb ha =>
    rw [resumeInst_of_busy hb]
    simp [advance, beginConfigure_eq, ha, setBusy_eq]
  | undoRx hb =>
    rw [resumeInst_of_busy hb]
    simp [advance, releaseRx_eq, setBusy_eq]
  | undoTx hb =>
    rw [resumeInst_of_busy hb]
    simp [advance, releaseTx_eq, beginFail_eq, setBusy_eq]
  | endTransmit hb =>
    rw [resumeInst_of_busy hb]
    simp [advance, endTransmit_eq, setBusy_eq]
  | endRx hb =>
    rw [resumeInst_of_busy hb]
    simp [advance, releaseRx_eq, setBusy_eq]
  | endTx hb =>
    rw [resumeInst_of_busy hb]
    simp [advance, releaseTx_eq, endReset_eq, setBusy_eq]
    rfl
  | endReset hb =>
    rw [resumeInst_of_busy hb]
    simp [advance, endReset_eq, setBusy_eq]

/-- An operation in flight has a next step. -/
theorem exists_resumed (c : Config) (k : InstId) {i : Instance} (p : List Bool) (hb : i.busy ≠ none) :
    ∃ j q rs, Resumed c k i p j q rs := by
  obtain ⟨ph, hb⟩ := Option.ne_none_iff_exists'.mp hb
  cases ph with
  | beginTx =>
    rcases lowestFree_or_allTaken (givenBack i.tx p) c.txRange.1 c.txRange.2 with ⟨a, ha⟩ | ha
    · exact ⟨_, _, _, .beginTxTaken hb ha⟩
    · exact ⟨_, _, _, .beginTxNone hb ha⟩
  | beginRx =>
    rcases lowestFree_or_allTaken (givenBack i.rx p) c.rxRange.1 c.rxRange.2 with ⟨a, ha⟩ | ha
    · exact ⟨_, _, _, .beginRxTaken hb ha⟩
    · exact ⟨_, _, _, .beginRxNone hb ha⟩
  | beginConfigure =>
    cases ha : configureAnswer k i with
    | true => exact ⟨_, _, _, .configured hb ha⟩
    | false => exact ⟨_, _, _, .notConfigured hb ha⟩
  | undoRx why => exact ⟨_, _, _, .undoRx hb⟩
  | undoTx why => exact ⟨_, _, _, .undoTx hb⟩
  | endTransmit => exact ⟨_, _, _, .endTransmit hb⟩
  | endRx => exact ⟨_, _, _, .endRx hb⟩
  | endTx => exact ⟨_, _, _, .endTx hb⟩
  | endReset => exact ⟨_, _, _, .endReset hb⟩

/-- Everything a `resume` can do. -/
theorem resumeInst_cases (k : InstId) (s : State) :
    ((s.inst k).busy = none ∧ resumeInst k s = s) ∨
    ∃ j p rs, Resumed (s.instCfg k) k (s.inst k) s.pool j p rs ∧ resumeInst k s = part s k j p rs := by
  by_cases hb : (s.inst k).busy = none
  · exact .inl ⟨hb, resumeInst_of_idle hb⟩
  · obtain ⟨j, p, rs, h⟩ := exists_resumed (s.instCfg k) k s.pool hb
    exact .inr ⟨j, p, rs, h, resumeInst_eq_part h⟩

end Sys2Proof.Proofs.Lifecycle

/-! PROOFS. `begin` and `end` as wholes: what each path leaves, and that the steps of an operation in flight make it up. -/

namespace Sys2Proof.Proofs.Lifecycle
open Sys2Proof Sys2Proof.Machine Sys2Proof.Laws Sys2Proof.Proofs.ChannelAllocator
open Claims (LowestFree AllTaken PartStep InstStep givenBack afterConfigure afterTransmit restarted configureAnswer transmitAnswer)

variable {s : State} {k : InstId}

theorem partStep_resumeInst {j : Instance} {p : List Bool} {rs : List Result}
    (h : Resumed (s.instCfg k) k (s.inst k) s.pool j p rs) : PartStep s (resumeInst k s) k j p rs := by
  rw [resumeInst_eq_part h]
  exact partStep_part ..

/-! ### Leaving in flight -/

theorem startBegin_of_busy (hb : (s.inst k).busy ≠ none) : startBegin k s = .refused (.overlap k) := by
  obtain ⟨ph, hb⟩ := Option.ne_none_iff_exists'.mp hb
  rw [startBegin, hb]

theorem startEnd_of_busy (hb : (s.inst k).busy ≠ none) : startEnd k s = .refused (.overlap k) := by
  obtain ⟨ph, hb⟩ := Option.ne_none_iff_exists'.mp hb
  rw [startEnd, hb]

theorem startBegin_of_initialized (hb : (s.inst k).busy = none) (hi : (s.inst k).initialized = true) :
    startBegin k s = .refused (.beginWhileInitialized k) := by
  rw [startBegin, hb]
  exact if_pos hi

theorem startBegin_of_idle (hb : (s.inst k).busy = none) (hi : (s.inst k).initialized = false) :
    startBegin k s = .next (s.setBusy k (some .beginTx)) := by
  rw [startBegin, hb]
  exact if_neg (by simp [hi])

theorem startEnd_of_idle (hb : (s.inst k).busy = none) :
    startEnd k s = .next (s.setBusy k (some (if (s.inst k).initialized then .endTransmit else .endReset))) := by
  rw [startEnd, hb]

theorem partStep_setBusy (s : State) (k : InstId) (b : Option Phase) :
    PartStep s (s.setBusy k b) k { s.inst k with busy := b } s.pool [] := by
  rw [setBusy_eq]
  exact partStep_part ..

/-! ### The whole operations -/

@[simp] theorem givenBack_none (p : List Bool) : givenBack { held := none } p = p := rfl

@[simp] theorem givenBack_some (a : Nat) (p : List Bool) : givenBack { held := some a } p = p.set a false := rfl

/-- The engine's answer does not depend on the leases. -/
@[simp] theorem configureAnswer_leases (k : InstId) (i : Instance) (tx rx : Lease) :
    configureAnswer k { i with tx := tx, rx := rx } = configureAnswer k i := rfl

/-- Nor does it depend on the operation in flight. -/
@[simp] theorem configureAnswer_busy (k : InstId) (i : Instance) (b : Option Phase) :
    configureAnswer k { i with busy := b } = configureAnswer k i := rfl

@[simp] theorem transmitAnswer_busy (k : InstId) (i : Instance) (b : Option Phase) :
    transmitAnswer k { i with busy := b } = transmitAnswer k i := rfl

/-- The receive lease of a `begin` and the pool after it: as they were without BIDIR, with it the lowest Free index of RX_RANGE. -/
def RxAcquired (c : Config) (L : Lease) (p : List Bool) (L' : Lease) (p' : List Bool) : Prop :=
  (c.bidir = false ∧ L' = L ∧ p' = p) ∨
  (c.bidir = true ∧ ∃ b, LowestFree (givenBack L p) c.rxRange.1 c.rxRange.2 b ∧
    L' = { held := some b } ∧ p' = (givenBack L p).set b true)

/-- The second part of a `begin`, on the state the first leaves. -/
theorem beginRx_of_acquired {i : Instance} {L : Lease} {p q : List Bool}
    (h : RxAcquired (s.instCfg k) i.rx p L q) :
    (if ((part s k i p []).instCfg k).bidir then beginRx k (part s k i p []) else (true, part s k i p [])) =
      (true, part s k { i with rx := L } q []) := by
  rcases h with ⟨hd, rfl, rfl⟩ | ⟨hd, b, hb, rfl, rfl⟩
  · simp [hd]
  · simp [hd, beginRx_eq, leaseAcquire_of_lowestFree hb]

section
variable {a : Nat} {rx : Lease} {p : List Bool}

theorem beginRun_of_noTx
    (ha : AllTaken (givenBack (s.inst k).tx s.pool) (s.instCfg k).txRange.1 (s.instCfg k).txRange.2) :
    beginRun k s =
      part s k { s.inst k with tx := { held := none }, diagLog := (s.inst k).diagLog ++ [.resourceExhausted] }
        (givenBack (s.inst k).tx s.pool) [.bool false] := by
  simp [beginRun, beginTx_eq, leaseAcquire_of_allTaken ha, beginFail_eq]

variable (ha : LowestFree (givenBack (s.inst k).tx s.pool) (s.instCfg k).txRange.1 (s.instCfg k).txRange.2 a)
include ha

theorem beginRun_of_noRx (hd : (s.instCfg k).bidir = true)
    (hr : AllTaken (givenBack (s.inst k).rx ((givenBack (s.inst k).tx s.pool).set a true))
      (s.instCfg k).rxRange.1 (s.instCfg k).rxRange.2) :
    beginRun k s =
      part s k
        { s.inst k with
          tx := { held := none }, rx := { held := none }, diagLog := (s.inst k).diagLog ++ [.resourceExhausted] }
        ((givenBack (s.inst k).rx ((givenBack (s.inst k).tx s.pool).set a true)).set a false) [.bool false] := by
  simp [beginRun, beginTx_eq, leaseAcquire_of_lowestFree ha, hd, beginRx_eq, leaseAcquire_of_allTaken hr, releaseTx_eq,
    beginFail_eq]

variable (hr : RxAcquired (s.instCfg k) (s.inst k).rx ((givenBack (s.inst k).tx s.pool).set a true) rx p)
include hr

theorem beginRun_of_notConfigured (hc : configureAnswer k (s.inst k) = false) :
    beginRun k s =
      part s k
        { afterConfigure k { held := some a } rx (s.inst k) with
          tx := { held := none }, rx := { held := none }, diagLog := (s.inst k).diagLog ++ [.hardwareConfigFailed] }
        ((givenBack rx p).set a false) [.bool false] := by
  simp only [beginRun, beginTx_eq, leaseAcquire_of_lowestFree ha]
  rw [beginRx_of_acquired (i := { s.inst k with tx := { held := some a } }) hr]
  simp [beginConfigure_eq, hc, releaseRx_eq, releaseTx_eq, beginFail_eq, afterConfigure]

theorem beginRun_of_configured (hc : configureAnswer k (s.inst k) = true) :
    beginRun k s =
      part s k (restarted true { held := some a } rx (afterConfigure k { held := some a } rx (s.inst k))) p
        [.bool true] := by
  simp only [beginRun, beginTx_eq, leaseAcquire_of_lowestFree ha]
  rw [beginRx_of_acquired (i := { s.inst k with tx := { held := some a } }) hr]
  simp [beginConfigure_eq, hc, beginCommit_eq, afterConfigure, restarted]

end

theorem endRun_of_initialized (hi : (s.inst k).initialized = true) :
    endRun k s =
      part s k
        (restarted false { held := none } { held := none }
          (afterTransmit (s.instCfg k) k (buildFrame (s.instCfg k).idleCode 0#1) (s.inst k)))
        (givenBack (s.inst k).tx (givenBack (s.inst k).rx s.pool)) [.unit] := by
  rw [endRun, if_pos hi]
  simp [endTransmit_eq, releaseRx_eq, releaseTx_eq, endReset_eq, afterTransmit, restarted]

theorem endRun_of_not_initialized (hi : (s.inst k).initialized = false) :
    endRun k s = part s k (restarted false (s.inst k).tx (s.inst k).rx (s.inst k)) s.pool [.unit] := by
  rw [endRun, if_neg (by simp [hi]), endReset_eq]

/-! ### Step by step is the whole -/

/-- A `begin` from the engine's answer on. -/
def beginFromConfigure (k : InstId) (s : State) : State :=
  if (beginConfigure k s).1 then beginCommit k (beginConfigure k s).2
  else beginFail k .hardwareConfigFailed (releaseTx k (releaseRx k (beginConfigure k s).2))

/-- A `begin` with BIDIR from the receive lease on. -/
def beginFromRx (k : InstId) (s : State) : State :=
  if (beginRx k s).1 then beginFromConfigure k (beginRx k s).2
  else beginFail k .resourceExhausted (releaseTx k (beginRx k s).2)

theorem instCfg_beginTx (k : InstId) (s : State) : (beginTx k s).2.instCfg k = s.instCfg k := by simp [beginTx_eq]

theorem beginRun_eq (k : InstId) (s : State) :
    beginRun k s =
      if (beginTx k s).1 then
        if (s.instCfg k).bidir then beginFromRx k (beginTx k s).2 else beginFromConfigure k (beginTx k s).2
      else beginFail k .resourceExhausted (beginTx k s).2 := by
  rw [← instCfg_beginTx k s, beginRun]
  unfold beginFromRx beginFromConfigure
  rcases beginTx k s with ⟨_ | _, s1⟩
  · rfl
  · dsimp only
    cases (s1.instCfg k).bidir
    · simp only [Bool.false_eq_true, if_false]
      rcases beginConfigure k s1 with ⟨_ | _, s3⟩ <;> rfl
    · rcases beginRx k s1 with ⟨_ | _, s2⟩
      · rfl
      · simp only [if_true]
        rcases beginConfigure k s2 with ⟨_ | _, s3⟩ <;> rfl

theorem advance_beginTx (k : InstId) (s : State) :
    advance k .beginTx s =
      if (beginTx k s).1 then ((beginTx k s).2, some (if (s.instCfg k).bidir then .beginRx else .beginConfigure))
      else (beginFail k .resourceExhausted (beginTx k s).2, none) := by
  rw [← instCfg_beginTx k s, advance]
  rcases beginTx k s with ⟨_ | _, s1⟩ <;> rfl

theorem advance_beginRx (k : InstId) (s : State) :
    advance k .beginRx s =
      ((beginRx k s).2, some (if (beginRx k s).1 then .beginConfigure else .undoTx .resourceExhausted)) := by
  rw [advance]
  rcases beginRx k s with ⟨_ | _, s1⟩ <;> rfl

theorem advance_beginConfigure (k : InstId) (s : State) :
    advance k .beginConfigure s =
      if (beginConfigure k s).1 then (beginCommit k (beginConfigure k s).2, none)
      else ((beginConfigure k s).2, some (.undoRx .hardwareConfigFailed)) := by
  rw [advance]
  rcases beginConfigure k s with ⟨_ | _, s1⟩ <;> rfl

/-- No part of the operation looks at where it stands. -/
theorem resumeInst_setBusy (k : InstId) (ph : Phase) (s : State) :
    resumeInst k (s.setBusy k (some ph)) = ((advance k ph s).1).setBusy k (advance k ph s).2 := by
  have hb : ((s.setBusy k (some ph)).inst k).busy = some ph := by rw [setBusy_eq, part_inst_same]
  rw [resumeInst_of_busy hb]
  cases ph with
  | beginTx =>
    rcases leaseAcquire_cases (s.instCfg k).txRange.1 (s.instCfg k).txRange.2 (s.inst k).tx s.pool with ⟨a, -, h⟩ | ⟨-, h⟩
    · simp [advance, beginTx_eq, setBusy_eq, h]
      rfl
    · simp [advance, beginTx_eq, setBusy_eq, beginFail_eq, h]
  | beginRx =>
    rcases leaseAcquire_cases (s.instCfg k).rxRange.1 (s.instCfg k).rxRange.2 (s.inst k).rx s.pool with ⟨a, -, h⟩ | ⟨-, h⟩
    · simp [advance, beginRx_eq, setBusy_eq, h]
    · simp [advance, beginRx_eq, setBusy_eq, h]
  | beginConfigure =>
    cases h : configureAnswer k (s.inst k)
    · simp [advance, beginConfigure_eq, setBusy_eq, h, afterConfigure]
    · simp [advance, beginConfigure_eq, beginCommit_eq, setBusy_eq, h, afterConfigure, restarted]
  | undoRx why => simp [advance, releaseRx_eq, setBusy_eq]
  | undoTx why => simp [advance, releaseTx_eq, beginFail_eq, setBusy_eq]
  | endTransmit => simp [advance, endTransmit_eq, setBusy_eq, afterTransmit]
  | endRx => simp [advance, releaseRx_eq, setBusy_eq]
  | endTx => simp [advance, releaseTx_eq, endReset_eq, setBusy_eq, restarted]
  | endReset => simp [advance, endReset_eq, setBusy_eq, restarted]

/-- Left in flight before step `ph` and stepped with nothing in between, the operation leaves `t` within `n` steps. -/
def Finishes (k : InstId) (n : Nat) (ph : Phase) (s t : State) : Prop :=
  ∃ m ≤ n, (resumeInst k)^[m] (s.setBusy k (some ph)) = t

theorem finishes_of_next {n : Nat} {ph ph' : Phase} {s s' t : State} (ha : advance k ph s = (s', some ph'))
    (h : Finishes k n ph' s' t) : Finishes k (n + 1) ph s t := by
  obtain ⟨m, hm, h⟩ := h
  refine ⟨m + 1, by omega, ?_⟩
  rw [Function.iterate_succ_apply, resumeInst_setBusy, ha, h]

theorem Finishes.mono {n m : Nat} {ph : Phase} {s t : State} (h : Finishes k n ph s t) (hnm : n ≤ m) :
    Finishes k m ph s t :=
  h.imp fun _ ⟨hle, heq⟩ => ⟨hle.trans hnm, heq⟩

theorem finishes_of_last {n : Nat} {ph : Phase} {s t : State} (ha : advance k ph s = (t, none))
    (ht : t.setBusy k none = t) : Finishes k (n + 1) ph s t := by
  refine ⟨1, by omega, ?_⟩
  rw [Function.iterate_one, resumeInst_setBusy, ha, ht]

section
variable (hb : (s.inst k).busy = none)
include hb

theorem setBusy_beginFail (why : Diag) : (beginFail k why s).setBusy k none = beginFail k why s := by
  simp [beginFail_eq, setBusy_eq, hb]

theorem setBusy_beginCommit : (beginCommit k s).setBusy k none = beginCommit k s := by
  simp [beginCommit_eq, setBusy_eq, restarted, hb]

theorem setBusy_endReset : (endReset k s).setBusy k none = endReset k s := by
  simp [endReset_eq, setBusy_eq, restarted, hb]

theorem busy_releaseTx : ((releaseTx k s).inst k).busy = none := by simp [releaseTx_eq, hb]

theorem busy_releaseRx : ((releaseRx k s).inst k).busy = none := by simp [releaseRx_eq, hb]

theorem busy_endTransmit : ((endTransmit k s).inst k).busy = none := by simp [endTransmit_eq, afterTransmit, hb]

theorem busy_beginTx : ((beginTx k s).2.inst k).busy = none := by simp [beginTx_eq, hb]

theorem busy_beginRx : ((beginRx k s).2.inst k).busy = none := by simp [beginRx_eq, hb]

theorem busy_beginConfigure : ((beginConfigure k s).2.inst k).busy = none := by
  simp [beginConfigure_eq, afterConfigure, hb]

theorem finishes_undoTx (why : Diag) : Finishes k 1 (.undoTx why) s (beginFail k why (releaseTx k s)) :=
  finishes_of_last rfl (setBusy_beginFail (busy_releaseTx hb) why)

theorem finishes_undoRx (why : Diag) :
    Finishes k 2 (.undoRx why) s (beginFail k why (releaseTx k (releaseRx k s))) :=
  finishes_of_next rfl (finishes_undoTx (busy_releaseRx hb) why)

theorem finishes_beginConfigure : Finishes k 3 .beginConfigure s (beginFromConfigure k s) := by
  have hb' := busy_beginConfigure hb
  unfold beginFromConfigure
  split
  · next hc => exact finishes_of_last (by simp [advance_beginConfigure, hc]) (setBusy_beginCommit hb')
  · next hc => exact finishes_of_next (by simp [advance_beginConfigure, hc]) (finishes_undoRx hb' _)

theorem finishes_beginRx : Finishes k 4 .beginRx s (beginFromRx k s) := by
  have hb' := busy_beginRx hb
  unfold beginFromRx
  split
  · next hr => exact finishes_of_next (by simp [advance_beginRx, hr]) (finishes_beginConfigure hb')
  · next hr => exact (finishes_of_next (by simp [advance_beginRx, hr]) (finishes_undoTx hb' _)).mono (by omega)

theorem finishes_beginRun : Finishes k 5 .beginTx s (beginRun k s) := by
  have hb' := busy_beginTx hb
  rw [beginRun_eq]
  split
  · next ht =>
    split
    · next hd => exact finishes_of_next (by simp [advance_beginTx, ht, hd]) (finishes_beginRx hb')
    · next hd =>
      exact (finishes_of_next (by simp [advance_beginTx, ht, hd]) (finishes_beginConfigure hb')).mono (by omega)
  · next ht => exact finishes_of_last (by simp [advance_beginTx, ht]) (setBusy_beginFail hb' _)

theorem finishes_endRun :
    Finishes k 3 (if (s.inst k).initialized then .endTransmit else .endReset) s (endRun k s) := by
  unfold endRun
  split
  · have hb1 := busy_endTransmit hb
    have hb2 := busy_releaseRx hb1
    exact finishes_of_next rfl (finishes_of_next rfl (finishes_of_last rfl (setBusy_endReset (busy_releaseTx hb2))))
  · exact finishes_of_last rfl (setBusy_endReset hb)

end

/-! ### The obligations -/

theorem lease_eq_empty {L : Lease} (h : L.held = none) : L = { held := none } := congrArg Lease.mk h

/-- Giving a Free index back changes nothing. -/
theorem set_lowestFree {p : List Bool} {first last a : Nat} (h : LowestFree p first last a) : p.set a false = p := by
  rw [← poolRelease_eq_set, poolRelease_eq_self (.inl h.2.2.1)]

theorem exists_schedBegin_instStep {j : Instance} {p : List Bool} {r : Result} (hb : (s.inst k).busy = none)
    (hi : (s.inst k).initialized = false) (h : beginRun k s = part s k j p [r]) :
    ∃ t, exec (.schedBegin k) s = .next t ∧ InstStep s t k j p r := by
  refine ⟨_, execSchedBegin_next.mpr ⟨hb, hi, rfl⟩, ?_⟩
  rw [h]
  exact partStep_part ..

theorem exists_schedEnd_instStep {j : Instance} {p : List Bool} {r : Result} (hb : (s.inst k).busy = none)
    (h : endRun k s = part s k j p [r]) :
    ∃ t, exec (.schedEnd k) s = .next t ∧ InstStep s t k j p r := by
  refine ⟨_, execSchedEnd_next.mpr ⟨hb, rfl⟩, ?_⟩
  rw [h]
  exact partStep_part ..

/-- The two ways the statements write the receive lease of a `begin`, on an empty lease. -/
theorem rxAcquired_of_empty {c : Config} {p : List Bool} {rx : Option Nat}
    (h : (c.bidir = false ∧ rx = none) ∨
      (c.bidir = true ∧ ∃ b, rx = some b ∧ LowestFree p c.rxRange.1 c.rxRange.2 b)) :
    ∃ q, RxAcquired c { held := none } p { held := rx } q ∧ givenBack { held := rx } q = p := by
  rcases h with ⟨hd, rfl⟩ | ⟨hd, b, rfl, hb⟩
  · exact ⟨p, .inl ⟨hd, rfl, rfl⟩, rfl⟩
  · exact ⟨p.set b true, .inr ⟨hd, b, hb, rfl, rfl⟩, by rw [givenBack_some, List.set_set, set_lowestFree hb]⟩

/-- Settles O34, failure by failure: what was acquired before it is given back, and giving back a Free index changes
nothing. -/
theorem failedBeginLeavesNothingBehind : Obligations.FailedBeginLeavesNothingBehind := by
  rintro s k _ rfl hb hi htx hrx
  replace htx := lease_eq_empty htx
  replace hrx := lease_eq_empty hrx
  refine ⟨fun ha => ?_, fun a ha => ⟨fun ⟨hd, hr⟩ => ?_, fun rx hr hc => ?_⟩⟩
  · refine exists_schedBegin_instStep hb hi ?_
    rw [beginRun_of_noTx (by simpa [htx] using ha)]
    simp [htx]
  · refine exists_schedBegin_instStep hb hi ?_
    rw [beginRun_of_noRx (by simpa [htx] using ha) hd (by simpa [htx, hrx] using hr)]
    simp [htx, hrx, set_lowestFree ha]
  · refine exists_schedBegin_instStep hb hi ?_
    obtain ⟨q, hacquired, hback⟩ := rxAcquired_of_empty hr
    rw [beginRun_of_notConfigured (by simpa [htx] using ha) (by simpa [htx, hrx] using hacquired) hc]
    simp [htx, hrx, hback, set_lowestFree ha, afterConfigure]

/-- Settles O35: the path on which every acquire and the engine succeed. -/
theorem successfulBeginTakesItsLeases : Obligations.SuccessfulBeginTakesItsLeases := by
  rintro s k _ a rx p rfl hb hi htx hrx ha hr hc
  replace htx := lease_eq_empty htx
  replace hrx := lease_eq_empty hrx
  refine exists_schedBegin_instStep hb hi (beginRun_of_configured (by simpa [htx] using ha) ?_ hc)
  rw [htx, hrx]
  rcases hr with ⟨hd, rfl, rfl⟩ | ⟨hd, b, rfl, rfl, hbfree⟩
  · exact .inl ⟨hd, rfl, rfl⟩
  · exact .inr ⟨hd, b, hbfree, rfl, rfl⟩

/-- Settles O37, for an instance that is initialized and for one that is not. -/
theorem endGoesIdleAndReleases : Obligations.EndGoesIdleAndReleases := by
  rintro s k _ rfl hb
  exact ⟨fun hi => exists_schedEnd_instStep hb (endRun_of_initialized hi),
    fun hi => exists_schedEnd_instStep hb (endRun_of_not_initialized hi)⟩

/-- Settles O51: `begin` has at most three parts and two to undo them, `end` three. -/
theorem steppedLifecycleIsTheWholeOperation : Obligations.SteppedLifecycleIsTheWholeOperation := by
  refine fun s t k => ⟨fun h => ?_, fun h => ?_⟩
  · obtain ⟨hb, hi, rfl⟩ := execSchedBegin_next.mp h
    obtain ⟨n, hn, hsteps⟩ := finishes_beginRun hb
    exact ⟨_, n, startBegin_of_idle hb hi, hn, hsteps⟩
  · obtain ⟨hb, rfl⟩ := execSchedEnd_next.mp h
    obtain ⟨n, hn, hsteps⟩ := finishes_endRun hb
    exact ⟨_, n, startEnd_of_idle hb, hn, hsteps⟩

/-- Settles O60: one clause for each way a resumed step can go. -/
theorem lifecycleStepsMakeOneCallEach : Obligations.LifecycleStepsMakeOneCallEach := by
  rintro s k _ rfl
  refine ⟨fun hb => ⟨startBegin_of_busy hb, startEnd_of_busy hb⟩, startBegin_of_initialized, fun hb hi => ?_, fun hb => ?_,
    resumeInst_of_idle, fun hb => ?_, fun hb => ?_, fun hb => ?_, fun why hb => ?_, fun why hb => ?_, fun hb => ?_,
    fun hb => ?_, fun hb => ?_, fun hb => ?_⟩
  · exact ⟨_, startBegin_of_idle hb hi, partStep_setBusy ..⟩
  · exact ⟨_, startEnd_of_idle hb, partStep_setBusy ..⟩
  · rintro _ rfl
    exact ⟨fun a ha => partStep_resumeInst (.beginTxTaken hb ha), fun ha => partStep_resumeInst (.beginTxNone hb ha)⟩
  · rintro _ rfl
    exact ⟨fun a ha => partStep_resumeInst (.beginRxTaken hb ha), fun ha => partStep_resumeInst (.beginRxNone hb ha)⟩
  · exact ⟨fun ha => partStep_resumeInst (.configured hb ha), fun ha => partStep_resumeInst (.notConfigured hb ha)⟩
  · exact partStep_resumeInst (.undoRx hb)
  · exact partStep_resumeInst (.undoTx hb)
  · exact partStep_resumeInst (.endTransmit hb)
  · exact partStep_resumeInst (.endRx hb)
  · exact partStep_resumeInst (.endTx hb)
  · exact partStep_resumeInst (.endReset hb)

end Sys2Proof.Proofs.Lifecycle

/-! PROOFS. Acquiring from the pool, raw and into a lease (rules R170, R171, R177, R180 to R184): the scan decides between the
lowest Free index and nothing, and a lease's operation is a write of the pool and of that lease. -/

namespace Sys2Proof.Proofs.Leases
open Sys2Proof Sys2Proof.Machine Sys2Proof.Laws Sys2Proof.Proofs.ChannelAllocator Sys2Proof.Proofs.Lifecycle
open Claims (LowestFree AllTaken LeaseStep givenBack freeCount returned pooled)

/-! ### The pool's acquire -/

section
variable (s : State)

theorem exec_allocAcquireInRange (first last : Nat) :
    exec (.allocAcquireInRange first last) s = .next (acquireIndex first last s) := rfl

theorem exec_allocAcquireAny : exec .allocAcquireAny s = .next (acquireIndex 0 (s.pool.length - 1) s) := rfl

theorem exec_allocIsTaken (index : Nat) :
    exec (.allocIsTaken index) s = .next (returned s (.bool (poolTaken s.pool index))) := rfl

variable {s}

theorem acquireIndex_of_lowestFree {first last i : Nat} (h : LowestFree s.pool first last i) :
    acquireIndex first last s = pooled s (s.pool.set i true) (.index (some i)) := by
  rw [acquireIndex, poolAcquire, scanFree_eq_some.mpr h]
  rfl

theorem acquireIndex_of_allTaken {first last : Nat} (h : AllTaken s.pool first last) :
    acquireIndex first last s = returned s (.index none) := by
  rw [acquireIndex, poolAcquire, scanFree_eq_none.mpr h]
  rfl

end

theorem freeCount_eq_zero {p : List Bool} : freeCount p = 0 ↔ AllTaken p 0 (p.length - 1) := by
  rw [← poolCountFree_eq_freeCount, poolCountFree, List.countP_eq_zero]
  constructor
  · intro h m _ _ hm
    have := h p[m] (List.getElem_mem hm)
    rw [List.getElem?_eq_getElem hm]
    simpa using this
  · intro h b hb
    obtain ⟨m, hm, rfl⟩ := List.getElem_of_mem hb
    have := h m (Nat.zero_le m) (by omega) hm
    rw [List.getElem?_eq_getElem hm] at this
    simpa using this

/-- Taking a Free entry leaves one Free entry less. -/
theorem freeCount_set {p : List Bool} {i : Nat} (h : p[i]? = some false) :
    freeCount (p.set i true) + 1 = freeCount p := by
  obtain ⟨hi, hfree⟩ := List.getElem?_eq_some_iff.mp h
  have hpos : 0 < poolCountFree p := List.countP_pos_iff.mpr ⟨p[i], List.getElem_mem hi, by simp [hfree]⟩
  have hset : poolCountFree (p.set i true) = poolCountFree p - 1 := by
    simp [poolCountFree, List.countP_set hi, hfree]
  rw [← poolCountFree_eq_freeCount, ← poolCountFree_eq_freeCount]
  omega

/-! ### The operations on a lease -/

section
variable {s : State} {l : LeaseId}

theorem exec_leaseAcquireInRange (s : State) (l : LeaseId) (first last : Nat) :
    exec (.leaseAcquireInRange l first last) s = onLease l s fun slot => leaseAcquireState l first last slot s := rfl

theorem exec_leaseAcquireAny (s : State) (l : LeaseId) :
    exec (.leaseAcquireAny l) s = exec (.leaseAcquireInRange l 0 (s.pool.length - 1)) s := rfl

theorem exec_leaseRelease_eq_onLease (s : State) (l : LeaseId) :
    exec (.leaseRelease l) s = onLease l s fun slot => leaseReleaseState l false slot s := rfl

theorem exec_leaseDestroy (s : State) (l : LeaseId) :
    exec (.leaseDestroy l) s = onLease l s fun slot => leaseReleaseState l true slot s := rfl

theorem exec_leaseDisown (s : State) (l : LeaseId) :
    exec (.leaseDisown l) s = onLease l s fun slot =>
      (s.setLease l { slot with lease := { held := none } }).ret (.index slot.lease.held) := rfl

theorem onLease_of_destroyed (f : LeaseSlot → State) (h : (s.lease l).destroyed = true) :
    onLease l s f = .refused (.leaseDestroyed l) := if_pos h

theorem onLease_of_live (f : LeaseSlot → State) (h : (s.lease l).destroyed = false) :
    onLease l s f = .next (f (s.lease l)) := onLease_next.mpr ⟨h, rfl⟩

theorem exists_leaseAcquire_some {first last i : Nat} (hlive : (s.lease l).destroyed = false)
    (h : LowestFree (givenBack (s.lease l).lease s.pool) first last i) :
    ∃ t, exec (.leaseAcquireInRange l first last) s = .next t ∧
      LeaseStep s t l { lease := { held := some i }, destroyed := false }
        ((givenBack (s.lease l).lease s.pool).set i true) (.bool true) := by
  refine ⟨_, (exec_leaseAcquireInRange ..).trans (onLease_of_live _ hlive), ?_⟩
  rw [leaseAcquireState, leaseAcquire_of_lowestFree h, hlive]
  exact leaseStep_of_writes ..

theorem exists_leaseAcquire_none {first last : Nat} (hlive : (s.lease l).destroyed = false)
    (h : AllTaken (givenBack (s.lease l).lease s.pool) first last) :
    ∃ t, exec (.leaseAcquireInRange l first last) s = .next t ∧
      LeaseStep s t l { lease := { held := none }, destroyed := false } (givenBack (s.lease l).lease s.pool)
        (.bool false) := by
  refine ⟨_, (exec_leaseAcquireInRange ..).trans (onLease_of_live _ hlive), ?_⟩
  rw [leaseAcquireState, leaseAcquire_of_allTaken h, hlive]
  exact leaseStep_of_writes ..

end

/-! ### The obligations -/

/-- Settles O25, by the scan's two outcomes. -/
theorem acquireTakesTheLowestFreeIndex : Obligations.AcquireTakesTheLowestFreeIndex := by
  refine fun s => ⟨fun first last i h => ?_, fun first last h => ?_, fun i h => ?_, fun h => ?_⟩
  · rw [exec_allocAcquireInRange, acquireIndex_of_lowestFree h]
  · rw [exec_allocAcquireInRange, acquireIndex_of_allTaken h]
  · rw [exec_allocAcquireAny, acquireIndex_of_lowestFree h]
  · rw [exec_allocAcquireAny, acquireIndex_of_allTaken h]

/-- Settles O26: where the scan finds an index the count falls by one, and it finds none exactly where the count is 0. -/
theorem eachAcquireUsesOneFreeEntry : Obligations.EachAcquireUsesOneFreeEntry := by
  refine fun s => ⟨_, exec_allocAcquireAny s, ?_⟩
  rcases lowestFree_or_allTaken s.pool 0 (s.pool.length - 1) with ⟨i, h⟩ | h
  · have ⟨_, _, hfree, _⟩ := h
    have hcount := freeCount_set hfree
    rw [acquireIndex_of_lowestFree h]
    refine ⟨fun _ => ⟨hcount, i, rfl, hfree, ?_⟩, fun hzero => by omega⟩
    exact List.getElem?_set_self (List.getElem?_eq_some_iff.mp hfree).1
  · have hzero := freeCount_eq_zero.mpr h
    rw [acquireIndex_of_allTaken h]
    exact ⟨fun hpos => by omega, fun _ => rfl⟩

/-- Settles O29, for an index inside the pool and outside. -/
theorem isTakenReadsOneEntry : Obligations.IsTakenReadsOneEntry := by
  intro s index
  have h : poolTaken s.pool index = (s.pool[index]? == some true) := by
    rw [Bool.eq_iff_iff, poolTaken_eq_true, beq_iff_eq]
  rw [exec_allocIsTaken, h]

/-- Settles O30: `acquire_any` is `acquire_in_range` of the whole pool. -/
theorem leaseAcquireReplacesWhatItHolds : Obligations.LeaseAcquireReplacesWhatItHolds := by
  refine fun s l hlive => ⟨fun _ _ _ h => exists_leaseAcquire_some hlive h, fun _ _ h => exists_leaseAcquire_none hlive h,
    fun i h => ?_, fun h => ?_⟩
  · rw [exec_leaseAcquireAny]
    exact exists_leaseAcquire_some hlive h
  · rw [exec_leaseAcquireAny]
    exact exists_leaseAcquire_none hlive h

/-- Settles O32, operation by operation. -/
theorem disownKeepsAndDestroyReleases : Obligations.DisownKeepsAndDestroyReleases := by
  refine fun s l hlive => ⟨⟨_, (exec_leaseDisown s l).trans (onLease_of_live _ hlive), ?_⟩,
    ⟨_, (exec_leaseDestroy s l).trans (onLease_of_live _ hlive), leaseStep_leaseReleaseState ..⟩⟩
  rw [hlive]
  exact leaseStep_of_writes s l _ s.pool _

/-- Settles O33: the flag is looked at first. -/
theorem destroyedLeaseMayNotBeNamed : Obligations.DestroyedLeaseMayNotBeNamed := by
  rintro s l i h (rfl | ⟨first, last, rfl⟩ | rfl | rfl | rfl)
  · rw [exec_leaseAcquireAny, exec_leaseAcquireInRange, onLease_of_destroyed _ h]
  · rw [exec_leaseAcquireInRange, onLease_of_destroyed _ h]
  · rw [exec_leaseRelease_eq_onLease, onLease_of_destroyed _ h]
  · rw [exec_leaseDestroy, onLease_of_destroyed _ h]
  · rw [exec_leaseDisown, onLease_of_destroyed _ h]

end Sys2Proof.Proofs.Leases

/-! PROOFS. The commanding operations of a scheduler instance (rules R191 to R199): clock, gate, cadence, transmission and window,
each in the words of the claims, and from them what the operations leave. -/

namespace Sys2Proof.Proofs.Commands
open Sys2Proof Sys2Proof.Machine Sys2Proof.Laws Sys2Proof.Proofs.Lifecycle Sys2Proof.Proofs.EscLinkScheduler
open Claims (InstStep Gated WindowDone Hysteresis AtLeast AtMost afterClock afterGate afterTransmit afterWindow
  cadenceFrame clockReading transmitAnswer captureAnswer)

/-! ### The internal procedures -/

section
variable (c : Config) (k : InstId) (i : Instance)

theorem now_eq : i.now k = (clockReading k i, afterClock k i) := by
  simp only [Instance.now, Instance.logCall, nextAnswer_eq, clockReading, afterClock]

theorem cadence_eq (divisor counter : Nat) :
    cadence divisor counter =
      (if divisor ≤ counter + 1 then 1#1 else 0#1, if divisor ≤ counter + 1 then 0 else counter + 1) := by
  unfold cadence
  split <;> rfl

theorem pollCapture_eq :
    Instance.pollCapture k (i.logCall .beginReceiveWindow) =
      (captureAnswer k i,
        { i with
          env := { i.env with capture := i.env.capture.tail, draws := i.env.draws + 1 }
          envLog := i.envLog ++ [.beginReceiveWindow, .pollCapture (captureAnswer k i)] }) := by
  simp [Instance.pollCapture, Instance.logCall, nextAnswer_eq, captureAnswer]

theorem receiveWindow_eq_takeCapture :
    Instance.receiveWindow c k i = Instance.takeCapture c (captureAnswer k i) (afterWindow k i) := by
  rw [receiveWindow_eq, pollCapture_eq]
  simp [Instance.logCall, afterWindow]

theorem receiveWindow_windowDone : WindowDone c k i (Instance.receiveWindow c k i) := by
  rw [receiveWindow_eq_takeCapture]
  refine ⟨fun hnone => by rw [hnone]; rfl, fun r hr => ⟨fun hd => ?_, fun f hf => ?_⟩⟩
  · rw [hr, Instance.takeCapture, hd]
    rfl
  · rw [hr, Instance.takeCapture, hf]
    rfl

/-- The window follows exactly where a request was sent and a receive lease is live. -/
theorem scheduledTransmit_eq_afterTransmit (v : U11) :
    Instance.scheduledTransmit c k v i =
      (let j := { i with counter := if i.divisor ≤ i.counter + 1 then 0 else i.counter + 1 }
       (transmitAnswer k j,
        if transmitAnswer k j = true ∧ i.divisor ≤ i.counter + 1 ∧ i.rx.held ≠ none then
          Instance.receiveWindow c k (afterTransmit c k (cadenceFrame i v) j)
        else afterTransmit c k (cadenceFrame i v) j)) := by
  have hbit : (if i.divisor ≤ i.counter + 1 then 1#1 else 0#1) = 1#1 ↔ i.divisor ≤ i.counter + 1 := by
    split <;> simp [*]
  simp only [Instance.scheduledTransmit, cadence_eq, sendFrame_eq_afterTransmit, cadenceFrame]
  cases transmitAnswer k { i with counter := if i.divisor ≤ i.counter + 1 then 0 else i.counter + 1 }
  · simp
  · simp [hbit, afterTransmit]

variable {c k i}

theorem gatedTransmit_of_early (v : U11) (h : clockReading k i < i.nextDue) :
    Instance.gatedTransmit c k v i = (false, { afterClock k i with diagLog := i.diagLog ++ [.rateLimited] }) := by
  have hgate : (afterClock k i).rateGate (clockReading k i) =
      (false, { afterClock k i with diagLog := i.diagLog ++ [.rateLimited] }) := if_pos h
  rw [Instance.gatedTransmit, now_eq]
  simp only [hgate]

theorem gatedTransmit_of_due (v : U11) (h : i.nextDue ≤ clockReading k i) :
    Instance.gatedTransmit c k v i =
      (transmitAnswer k (afterGate k i),
        if transmitAnswer k (afterGate k i) = true ∧ i.divisor ≤ i.counter + 1 ∧ i.rx.held ≠ none then
          Instance.receiveWindow c k (afterTransmit c k (cadenceFrame i v) (afterGate k i))
        else afterTransmit c k (cadenceFrame i v) (afterGate k i)) := by
  have hgate : (afterClock k i).rateGate (clockReading k i) =
      (true, { afterClock k i with nextDue := clockReading k i + i.periodUs }) := if_neg (by simpa [afterClock] using h)
  rw [Instance.gatedTransmit, now_eq]
  simp only [hgate]
  exact scheduledTransmit_eq_afterTransmit c k { afterClock k i with nextDue := clockReading k i + i.periodUs } v

/-- A gated transmission does what the claims say of one. -/
theorem gatedTransmit_gated (c : Config) (k : InstId) (v : U11) (i : Instance) :
    Gated c k v i (Instance.gatedTransmit c k v i).1 (Instance.gatedTransmit c k v i).2 := by
  refine ⟨fun h => ?_, fun h => ?_⟩
  · rw [gatedTransmit_of_early v h]
    exact ⟨rfl, rfl⟩
  · rw [gatedTransmit_of_due v h]
    refine ⟨rfl, fun hwindow => ?_, fun hno => if_neg hno⟩
    rw [if_pos hwindow]
    exact receiveWindow_windowDone ..

end

/-! ### Hysteresis (rule R193) -/

theorem throttleGe_iff {x : ThrottleInput} {q : Rat} : throttleGe x q = true ↔ AtLeast x q := by
  cases x <;> simp [throttleGe, AtLeast]

theorem throttleLe_iff {x : ThrottleInput} {q : Rat} : throttleLe x q = true ↔ AtMost x q := by
  cases x <;> simp [throttleLe, AtMost]

theorem hysteresis_spec {link : Link} (x : ThrottleInput) (h : link ≠ .disarmed) :
    Hysteresis link x (hysteresis link x).2 (hysteresis link x).1 := by
  cases link with
  | disarmed => exact absurd rfl h
  | armedZero =>
    rw [hysteresis]
    split
    · next hge => exact .inl ⟨rfl, throttleGe_iff.mp hge, rfl, rfl⟩
    · next hge => exact .inr (.inl ⟨rfl, fun h => hge (throttleGe_iff.mpr h), rfl, rfl⟩)
  | armedActive =>
    rw [hysteresis]
    split
    · next hle => exact .inr (.inr (.inl ⟨rfl, throttleLe_iff.mp hle, rfl, rfl⟩))
    · next hle => exact .inr (.inr (.inr ⟨rfl, fun h => hle (throttleLe_iff.mpr h), rfl, rfl⟩))

/-! ### The operations on one instance -/

theorem commandable_iff {i : Instance} : i.commandable = true ↔ i.initialized = true ∧ i.link ≠ .disarmed := by
  simp [Instance.commandable]

section
variable {i : Instance} (c : Config) (k : InstId)

theorem writeNormalized_of_commandable (x : ThrottleInput) (h : i.commandable = true) :
    Instance.writeNormalized c k x i =
      Instance.gatedTransmit c k (Machine.encodeThrottle c (hysteresis i.link x).1)
        { i with link := (hysteresis i.link x).2 } := if_pos h

theorem writeNormalized_of_not_commandable (x : ThrottleInput) (h : i.commandable = false) :
    Instance.writeNormalized c k x i = (false, i) := if_neg (by simp [h])

theorem sendSpecial_of_commandable (code : U8) (h : i.commandable = true) :
    Instance.sendSpecial c k code i = Instance.gatedTransmit c k (Machine.encodeSpecial code) i := if_pos h

theorem sendSpecial_of_not_commandable (code : U8) (h : i.commandable = false) :
    Instance.sendSpecial c k code i = (false, i) := if_neg (by simp [h])

theorem arm_true_eq (i : Instance) :
    Instance.arm c k true i = { i with link := if i.link = .disarmed then .armedZero else i.link } := by
  rw [Instance.arm, if_neg (by simp)]
  cases i.link <;> rfl

theorem arm_false_eq (i : Instance) :
    Instance.arm c k false i =
      { (if i.initialized then afterTransmit c k (buildFrame c.idleCode 0#1) i else i) with link := .disarmed } := by
  cases h : i.initialized
  · rw [Instance.arm, if_neg (by simp [h])]
    rfl
  · rw [Instance.arm, if_pos ⟨rfl, h⟩, forcedTransmit_eq]
    rfl

end

/-! ### The operations on a state -/

section
variable {s : State} {k : InstId}

theorem exec_schedArm (on : Bool) :
    exec (.schedArm k on) s = onInstance k s fun i => (.unit, Instance.arm (s.instCfg k) k on i) := rfl

theorem exec_schedWriteNormalized (x : ThrottleInput) :
    exec (.schedWriteNormalized k x) s = onInstance k s fun i =>
      (.bool (Instance.writeNormalized (s.instCfg k) k x i).1, (Instance.writeNormalized (s.instCfg k) k x i).2) := rfl

theorem exec_schedSendSpecial (code : U8) :
    exec (.schedSendSpecial k code) s = onInstance k s fun i =>
      (.bool (Instance.sendSpecial (s.instCfg k) k code i).1, (Instance.sendSpecial (s.instCfg k) k code i).2) := rfl

theorem exec_schedReadTelemetry :
    exec (.schedReadTelemetry k) s = onInstance k s fun i => (.telemetry i.readTelemetry.1, i.readTelemetry.2) := rfl

theorem onInstance_of_busy (f : Instance → Result × Instance) (hb : (s.inst k).busy ≠ none) :
    onInstance k s f = .refused (.overlap k) := by
  obtain ⟨ph, hb⟩ := Option.ne_none_iff_exists'.mp hb
  simp only [onInstance, hb]

theorem exists_onInstance_instStep (f : Instance → Result × Instance) (hb : (s.inst k).busy = none) :
    ∃ t, onInstance k s f = .next t ∧ InstStep s t k (f (s.inst k)).2 s.pool (f (s.inst k)).1 :=
  ⟨_, onInstance_next.mpr ⟨hb, rfl⟩, instStep_of_writes ..⟩

theorem exists_schedWriteNormalized_instStep (x : ThrottleInput) (hb : (s.inst k).busy = none) :
    ∃ t, exec (.schedWriteNormalized k x) s = .next t ∧
      InstStep s t k (Instance.writeNormalized (s.instCfg k) k x (s.inst k)).2 s.pool
        (.bool (Instance.writeNormalized (s.instCfg k) k x (s.inst k)).1) := by
  rw [exec_schedWriteNormalized]
  exact exists_onInstance_instStep _ hb

theorem exists_schedSendSpecial_instStep (code : U8) (hb : (s.inst k).busy = none) :
    ∃ t, exec (.schedSendSpecial k code) s = .next t ∧
      InstStep s t k (Instance.sendSpecial (s.instCfg k) k code (s.inst k)).2 s.pool
        (.bool (Instance.sendSpecial (s.instCfg k) k code (s.inst k)).1) := by
  rw [exec_schedSendSpecial]
  exact exists_onInstance_instStep _ hb

end

/-! ### The obligations -/

/-- Settles O36: a busy instance is refused before anything else is looked at. -/
theorem beginTwiceAndOverlapAreRefused : Obligations.BeginTwiceAndOverlapAreRefused := by
  refine fun s k => ⟨fun hb hi => ?_, fun hb => ⟨?_, ?_, ?_, ?_, ?_, ?_⟩⟩
  · show execSchedBegin k s = _
    rw [execSchedBegin, hb]
    exact if_pos hi
  · obtain ⟨ph, hb⟩ := Option.ne_none_iff_exists'.mp hb
    show execSchedBegin k s = _
    rw [execSchedBegin, hb]
  · obtain ⟨ph, hb⟩ := Option.ne_none_iff_exists'.mp hb
    show execSchedEnd k s = _
    rw [execSchedEnd, hb]
  · exact fun on => exec_schedArm on ▸ onInstance_of_busy _ hb
  · exact fun x => exec_schedWriteNormalized x ▸ onInstance_of_busy _ hb
  · exact fun code => exec_schedSendSpecial code ▸ onInstance_of_busy _ hb
  · exact exec_schedReadTelemetry ▸ onInstance_of_busy _ hb

/-- Settles O38, for each value of `on`. -/
theorem armMovesTheLink : Obligations.ArmMovesTheLink := by
  rintro s k _ rfl hb
  constructor
  · rw [← arm_true_eq (s.instCfg k) k, exec_schedArm]
    exact exists_onInstance_instStep _ hb
  · rw [← arm_false_eq (s.instCfg k) k, exec_schedArm]
    exact exists_onInstance_instStep _ hb

/-- Settles O39: such an instance is not commandable. -/
theorem commandsNeedAnArmedLink : Obligations.CommandsNeedAnArmedLink := by
  intro s k i hb hidle hi
  have hno : (s.inst k).commandable = false := by
    rcases hidle with h | h <;> simp [Instance.commandable, h]
  rcases hi with ⟨x, rfl⟩ | ⟨code, rfl⟩
  · obtain ⟨t, ht, hstep⟩ := exists_schedWriteNormalized_instStep x hb
    rw [writeNormalized_of_not_commandable _ _ _ hno] at hstep
    exact ⟨t, ht, hstep⟩
  · obtain ⟨t, ht, hstep⟩ := exists_schedSendSpecial_instStep code hb
    rw [sendSpecial_of_not_commandable _ _ _ hno] at hstep
    exact ⟨t, ht, hstep⟩

/-- Settles O40: the hysteresis step, then the gated transmission on the instance whose link it moved. -/
theorem writeNormalizedFollowsItsSteps : Obligations.WriteNormalizedFollowsItsSteps := by
  rintro s k _ x rfl hb hi hlink
  obtain ⟨t, ht, hstep⟩ := exists_schedWriteNormalized_instStep x hb
  rw [writeNormalized_of_commandable _ _ _ (commandable_iff.mpr ⟨hi, hlink⟩)] at hstep
  exact ⟨t, _, _, _, _, ht, hysteresis_spec x hlink, hstep, gatedTransmit_gated ..⟩

/-- Settles O41: the gated transmission alone. -/
theorem sendSpecialFollowsItsSteps : Obligations.SendSpecialFollowsItsSteps := by
  rintro s k _ code rfl hb hi hlink
  obtain ⟨t, ht, hstep⟩ := exists_schedSendSpecial_instStep code hb
  rw [sendSpecial_of_commandable _ _ _ (commandable_iff.mpr ⟨hi, hlink⟩)] at hstep
  refine ⟨t, _, _, ht, hstep, gatedTransmit_gated .., ?_⟩
  rw [gatedTransmit_frame]

/-- Settles O43, kind by kind. -/
theorem cacheUpdateWritesOneScalar : Obligations.CacheUpdateWritesOneScalar := by
  intro c polePairs f old
  have hrpm : min (f.value / polePairs) 65535 % 65536 = min (f.value / polePairs) 65535 :=
    Nat.mod_eq_of_lt (Nat.lt_of_le_of_lt (Nat.min_le_right _ _) (by decide))
  unfold cacheUpdate
  cases hk : f.kind <;> simp [hrpm]

theorem succ_mod_eq {d : Nat} (h : 1 ≤ d) (n : Nat) :
    (n + 1) % d = if d ≤ n % d + 1 then 0 else n % d + 1 := by
  have hlt := Nat.mod_lt n h
  rw [← Nat.mod_add_mod]
  split
  · rw [show n % d + 1 = d by omega, Nat.mod_self]
  · exact Nat.mod_eq_of_lt (by omega)

/-- The counter is the number of transmissions modulo the divisor. -/
theorem cadenceRun_counter {divisor : Nat} (h : 1 ≤ divisor) (n : Nat) :
    (Claims.cadenceRun divisor n).1 = n % divisor := by
  induction n with
  | zero => simp [Claims.cadenceRun]
  | succ n ih =>
    simp only [Claims.cadenceRun, ih, cadence_eq]
    exact (succ_mod_eq h n).symm

/-- Settles O44: the bit falls where the counter comes back to 0. -/
theorem telemetryBitComesEveryDivisor : Obligations.TelemetryBitComesEveryDivisor := by
  intro divisor n h
  refine ⟨cadenceRun_counter h n, ?_⟩
  simp only [Claims.cadenceRun, cadenceRun_counter h n, cadence_eq, List.head?_cons, succ_mod_eq h n]
  split <;> simp

/-- Everything a gated transmission can leave: it is dropped before the due time; or the frame goes to the engine, and where a
request was sent and a receive lease is live the window finds nothing, something that does not decode, or a frame. -/
inductive GatedLeaves (c : Config) (k : InstId) (v : U11) (i : Instance) : Bool → Instance → Prop
  | dropped (h : clockReading k i < i.nextDue) :
      GatedLeaves c k v i false { afterClock k i with diagLog := i.diagLog ++ [.rateLimited] }
  | transmitted (h : i.nextDue ≤ clockReading k i) :
      GatedLeaves c k v i (transmitAnswer k (afterGate k i)) (afterTransmit c k (cadenceFrame i v) (afterGate k i))
  | windowEmpty (h : i.nextDue ≤ clockReading k i) (hsent : transmitAnswer k (afterGate k i) = true) :
      GatedLeaves c k v i true (afterWindow k (afterTransmit c k (cadenceFrame i v) (afterGate k i)))
  | windowInvalid (h : i.nextDue ≤ clockReading k i) (hsent : transmitAnswer k (afterGate k i) = true) :
      GatedLeaves c k v i true
        { afterWindow k (afterTransmit c k (cadenceFrame i v) (afterGate k i)) with
          diagLog := (afterTransmit c k (cadenceFrame i v) (afterGate k i)).diagLog ++ [.decodeInvalid] }
  | windowRead {r : RunSample} {f : TelemetryFrame} (h : i.nextDue ≤ clockReading k i)
      (hsent : transmitAnswer k (afterGate k i) = true)
      (hf : decodeReply c r.highRuns r.lowRuns c.replyBitTicks = some f) :
      GatedLeaves c k v i true
        { afterWindow k (afterTransmit c k (cadenceFrame i v) (afterGate k i)) with
          cache := cacheUpdate c i.polePairs f i.cache }

theorem gatedLeaves_of_gated {c : Config} {k : InstId} {v : U11} {i j : Instance} {b : Bool} (h : Gated c k v i b j) :
    GatedLeaves c k v i b j := by
  obtain ⟨hearly, hdue⟩ := h
  rcases Nat.lt_or_ge (clockReading k i) i.nextDue with hlt | hge
  · obtain ⟨rfl, rfl⟩ := hearly hlt
    exact .dropped hlt
  · obtain ⟨rfl, hwindow, hno⟩ := hdue hge
    by_cases hw : transmitAnswer k (afterGate k i) = true ∧ i.divisor ≤ i.counter + 1 ∧ i.rx.held ≠ none
    · obtain ⟨hnone, hsome⟩ := hwindow hw
      rw [hw.1]
      cases hc : captureAnswer k (afterTransmit c k (cadenceFrame i v) (afterGate k i)) with
      | none => rw [hnone hc]; exact .windowEmpty hge hw.1
      | some r =>
        cases hd : decodeReply c r.highRuns r.lowRuns c.replyBitTicks with
        | none => rw [(hsome r hc).1 hd]; exact .windowInvalid hge hw.1
        | some f => rw [(hsome r hc).2 f hd]; exact .windowRead hge hw.1 hd
    · rw [hno hw]
      exact .transmitted hge

/-- A command that is sent leaves the clock's reading as the time, a full period as the time to the next one, and its frame in
the log. -/
theorem sent_command {c : Config} {k : InstId} {v : U11} {i j : Instance} (h : GatedLeaves c k v i true j) :
    j.env.time = clockReading k i ∧ j.nextDue = clockReading k i + i.periodUs ∧ j.txLog = i.txLog ++ [cadenceFrame i v] := by
  generalize hb : true = b at h
  cases h with
  | dropped h => cases hb
  | transmitted h => exact ⟨rfl, rfl, if_pos hb.symm⟩
  | windowEmpty h hsent => exact ⟨rfl, rfl, if_pos hsent⟩
  | windowInvalid h hsent => exact ⟨rfl, rfl, if_pos hsent⟩
  | windowRead h hsent hf => exact ⟨rfl, rfl, if_pos hsent⟩

/-- The hysteresis step never disarms. -/
theorem hysteresis_ne_disarmed {link : Link} (x : ThrottleInput) (h : link ≠ .disarmed) :
    (hysteresis link x).2 ≠ .disarmed := by
  rcases hysteresis_spec x h with ⟨-, -, h, -⟩ | ⟨-, -, h, -⟩ | ⟨-, -, h, -⟩ | ⟨-, -, h, -⟩ <;> simp [h]

/-- What a write that sent its frame leaves: the instance still takes commands, its clock stands at the gate's opening, and the
gate is shut for a period. -/
theorem sent_write {c : Config} {k : InstId} {x : ThrottleInput} {i : Instance}
    (hsent : (Instance.writeNormalized c k x i).1 = true) :
    (Instance.writeNormalized c k x i).2.commandable = true ∧
    (Instance.writeNormalized c k x i).2.busy = i.busy ∧
    (Instance.writeNormalized c k x i).2.nextDue =
      (Instance.writeNormalized c k x i).2.env.time + (Instance.writeNormalized c k x i).2.periodUs ∧
    ∃ w, (Instance.writeNormalized c k x i).2.txLog = i.txLog ++ [w] := by
  cases hc : i.commandable with
  | false => rw [writeNormalized_of_not_commandable c k x hc] at hsent; cases hsent
  | true =>
    rw [writeNormalized_of_commandable c k x hc] at hsent ⊢
    have hgated := gatedTransmit_gated c k (Machine.encodeThrottle c (hysteresis i.link x).1)
      { i with link := (hysteresis i.link x).2 }
    rw [hsent] at hgated
    obtain ⟨htime, hdue, hlog⟩ := sent_command (gatedLeaves_of_gated hgated)
    obtain ⟨hi, hlink⟩ := commandable_iff.mp hc
    refine ⟨commandable_iff.mpr ?_, ?_, ?_, _, hlog⟩
    · rw [gatedTransmit_frame]
      exact ⟨hi, hysteresis_ne_disarmed x hlink⟩
    · rw [gatedTransmit_frame]
    · rw [hdue, htime, gatedTransmit_frame]

/-- A write before the due time is dropped. -/
theorem writeNormalized_of_early {c : Config} {k : InstId} (x : ThrottleInput) {i : Instance} (hc : i.commandable = true)
    (h : clockReading k i < i.nextDue) :
    (Instance.writeNormalized c k x i).1 = false ∧ (Instance.writeNormalized c k x i).2.txLog = i.txLog := by
  rw [writeNormalized_of_commandable c k x hc,
    gatedTransmit_of_early (i := { i with link := (hysteresis i.link x).2 }) _ h]
  exact ⟨rfl, rfl⟩

/-- Settles O45: the first write shuts the gate until a period after its own reading of the clock. -/
theorem twoCloseWritesSendOneFrame : Obligations.TwoCloseWritesSendOneFrame := by
  intro s t k x y hfirst hsent hclose
  obtain ⟨hb, -⟩ := onInstance_next.mp ((exec_schedWriteNormalized x).symm.trans hfirst)
  obtain ⟨t', ht, -, hinst, -, -, hresults, -⟩ := exists_schedWriteNormalized_instStep x hb
  obtain rfl : t = t' := Host.Outcome.next.inj (hfirst.symm.trans ht)
  rw [hresults] at hsent
  obtain ⟨hc, hbusy, hdue, w, hlog⟩ := sent_write (c := s.instCfg k) (x := x) (i := s.inst k) (by simpa using hsent)
  rw [← hinst] at hc hbusy hdue hlog
  rw [← hdue] at hclose
  obtain ⟨u, hu, -, huinst, -, -, huresults, -⟩ := exists_schedWriteNormalized_instStep y (hbusy.trans hb)
  obtain ⟨hdropped, hsame⟩ := writeNormalized_of_early (c := t.instCfg k) y hc hclose
  rw [hdropped] at huresults
  exact ⟨u, w, hu, huresults, hlog, by rw [huinst, hsame]⟩

end Sys2Proof.Proofs.Commands

/-! PROOFS. The whole machine (rules R20, R68, R251): everything a step can do, said once as the effect of an event. -/

namespace Sys2Proof.Proofs.WholeMachine
open Sys2Proof Sys2Proof.Machine Sys2Proof.Laws Sys2Proof.Proofs.Lifecycle Sys2Proof.Proofs.Commands
  Sys2Proof.Proofs.ChannelAllocator Sys2Proof.Proofs.EscLinkScheduler
  Sys2Proof.Proofs.Leases
open Relation (ReflTransGen)
open Claims (Hysteresis afterTransmit)

/-! ### Operations in flight -/

/-- One resumed step takes an instance and the pool to the next. -/
def Advance (c : Config) (k : InstId) (x y : Instance × List Bool) : Prop :=
  ∃ rs, Resumed c k x.1 x.2 y.1 y.2 rs

theorem resumeInst_effect (k : InstId) (s : State) :
    ((s.inst k).busy = none ∧ resumeInst k s = s) ∨
    ∃ j p rs, Advance (s.instCfg k) k (s.inst k, s.pool) (j, p) ∧ resumeInst k s = part s k j p rs := by
  rcases resumeInst_cases k s with h | ⟨j, p, rs, h, heq⟩
  · exact .inl h
  · exact .inr ⟨j, p, rs, ⟨rs, h⟩, heq⟩

/-- However many steps are resumed, they change one instance, the pool and the results, step by step. -/
theorem iterate_resumeInst_part (s : State) (k : InstId) (i : Instance) (p : List Bool) (n : Nat) :
    ∃ j q rs, (resumeInst k)^[n] (part s k i p []) = part s k j q rs ∧
      ReflTransGen (Advance (s.instCfg k) k) (i, p) (j, q) := by
  induction n with
  | zero => exact ⟨i, p, [], rfl, .refl⟩
  | succ n ih =>
    obtain ⟨j, q, rs, hn, hreach⟩ := ih
    rw [Function.iterate_succ_apply', hn]
    rcases resumeInst_effect k (part s k j q rs) with ⟨-, heq⟩ | ⟨j', q', rs', hadv, heq⟩
    · exact ⟨j, q, rs, heq, hreach⟩
    · refine ⟨j', q', rs ++ rs', by rw [heq, part_part], hreach.tail ?_⟩
      simpa using hadv

/-! ### The effect of an event -/

/-- Everything a commanding or reading operation can do to instance `k` in state `i`. -/
inductive Commanded (c : Config) (k : InstId) (i : Instance) : Instr → Instance → Prop
  | arm : Commanded c k i (.schedArm k true) { i with link := if i.link = .disarmed then .armedZero else i.link }
  | disarm (hi : i.initialized = true) :
      Commanded c k i (.schedArm k false)
        { afterTransmit c k (buildFrame c.idleCode 0#1) i with link := .disarmed }
  | disarmIdle (hi : i.initialized = false) : Commanded c k i (.schedArm k false) { i with link := .disarmed }
  | writeIgnored (x : ThrottleInput) (hc : i.commandable = false) : Commanded c k i (.schedWriteNormalized k x) i
  | write {x used : ThrottleInput} {link : Link} {b : Bool} {j : Instance} (hc : i.commandable = true)
      (hh : Hysteresis i.link x link used) (hg : GatedLeaves c k (Machine.encodeThrottle c used) { i with link := link } b j) :
      Commanded c k i (.schedWriteNormalized k x) j
  | specialIgnored (code : U8) (hc : i.commandable = false) : Commanded c k i (.schedSendSpecial k code) i
  | special {code : U8} {b : Bool} {j : Instance} (hc : i.commandable = true)
      (hg : GatedLeaves c k (Machine.encodeSpecial code) i b j) : Commanded c k i (.schedSendSpecial k code) j
  | read : Commanded c k i (.schedReadTelemetry k) { i with cache := { i.cache with fresh := false } }

section
variable (c : Config) (k : InstId) (i : Instance)

theorem commanded_arm (on : Bool) : Commanded c k i (.schedArm k on) (Instance.arm c k on i) := by
  cases on with
  | true => rw [arm_true_eq]; exact .arm
  | false =>
    rw [arm_false_eq]
    cases hi : i.initialized with
    | true => exact .disarm hi
    | false => exact .disarmIdle hi

theorem commanded_writeNormalized (x : ThrottleInput) :
    Commanded c k i (.schedWriteNormalized k x) (Instance.writeNormalized c k x i).2 := by
  cases hc : i.commandable with
  | true =>
    rw [writeNormalized_of_commandable c k x hc]
    exact .write hc (hysteresis_spec x (commandable_iff.mp hc).2) (gatedLeaves_of_gated (gatedTransmit_gated ..))
  | false => rw [writeNormalized_of_not_commandable c k x hc]; exact .writeIgnored x hc

theorem commanded_sendSpecial (code : U8) :
    Commanded c k i (.schedSendSpecial k code) (Instance.sendSpecial c k code i).2 := by
  cases hc : i.commandable with
  | true =>
    rw [sendSpecial_of_commandable c k code hc]
    exact .special hc (gatedLeaves_of_gated (gatedTransmit_gated ..))
  | false => rw [sendSpecial_of_not_commandable c k code hc]; exact .specialIgnored code hc

theorem commanded_readTelemetry : Commanded c k i (.schedReadTelemetry k) i.readTelemetry.2 := by
  rw [readTelemetry_eq]
  exact .read

end

/-- Everything an event can do to the state. -/
inductive Effect (s : State) (e : Event) : State → Prop
  /-- a pure operation, a presented word, or nothing -/
  | logs (rs : List Result) (ds : List Diag) : Effect s e { s with results := rs, diagLog := ds }
  | acquire (first last : Nat) (h : e.instr = some .allocAcquireAny ∨ ∃ f l, e.instr = some (.allocAcquireInRange f l)) :
      Effect s e (acquireIndex first last s)
  | release {index : Nat} (h : e.instr = some (.allocRelease index)) :
      Effect s e ((s.setPool (poolRelease index s.pool)).ret .unit)
  | leaseAcquire {l : LeaseId} (first last : Nat)
      (h : e.instr = some (.leaseAcquireAny l) ∨ ∃ f l', e.instr = some (.leaseAcquireInRange l f l')) :
      Effect s e (leaseAcquireState l first last (s.lease l) s)
  | leaseRelease {l : LeaseId} (destroy : Bool) (h : e.instr = some (.leaseRelease l) ∨ e.instr = some (.leaseDestroy l)) :
      Effect s e (leaseReleaseState l destroy (s.lease l) s)
  | leaseDisown {l : LeaseId} (r : Result) (h : e.instr = some (.leaseDisown l)) :
      Effect s e ((s.setLease l { s.lease l with lease := { held := none } }).ret r)
  | command {k : InstId} {i : Instr} {j : Instance} (r : Result) (hi : e.instr = some i)
      (hb : (s.inst k).busy = none) (hc : Commanded (s.instCfg k) k (s.inst k) i j) : Effect s e (part s k j s.pool [r])
  /-- a `begin`, taken as far as it goes in this step: not at all where it is left in flight -/
  | beginning {k : InstId} {j : Instance} {p : List Bool} (rs : List Result) (hi : e.instr = some (.schedBegin k))
      (hb : (s.inst k).busy = none) (hidle : (s.inst k).initialized = false)
      (hr : ReflTransGen (Advance (s.instCfg k) k) ({ s.inst k with busy := some .beginTx }, s.pool) (j, p)) :
      Effect s e (part s k j p rs)
  /-- an `end`, likewise -/
  | ending {k : InstId} {j : Instance} {p : List Bool} (rs : List Result) (hi : e.instr = some (.schedEnd k))
      (hb : (s.inst k).busy = none)
      (hr : ReflTransGen (Advance (s.instCfg k) k)
        ({ s.inst k with busy := some (if (s.inst k).initialized then .endTransmit else .endReset) }, s.pool) (j, p)) :
      Effect s e (part s k j p rs)
  | resumed {k : InstId} {j : Instance} {p : List Bool} (rs : List Result) (he : e = .resume k)
      (hr : Advance (s.instCfg k) k (s.inst k, s.pool) (j, p)) : Effect s e (part s k j p rs)

section
variable {s t : State} {e : Event}

theorem effect_retDecoded (f : Option TelemetryFrame) : Effect s e (s.retDecoded f) := by
  cases f <;> exact .logs _ _

theorem effect_onInstance {k : InstId} {i : Instr} {f : Instance → Result × Instance} (hi : e.instr = some i)
    (hc : Commanded (s.instCfg k) k (s.inst k) i (f (s.inst k)).2) (h : onInstance k s f = .next t) : Effect s e t := by
  obtain ⟨hb, rfl⟩ := onInstance_next.mp h
  rw [setInst_eq_part, part_ret]
  exact .command _ hi hb hc

theorem effect_schedBegin {k : InstId} (hi : e.instr = some (.schedBegin k)) (h : execSchedBegin k s = .next t) :
    Effect s e t := by
  obtain ⟨hb, hidle, rfl⟩ := execSchedBegin_next.mp h
  obtain ⟨n, -, heq⟩ := finishes_beginRun hb
  obtain ⟨j, p, rs, hpart, hr⟩ := iterate_resumeInst_part s k { s.inst k with busy := some .beginTx } s.pool n
  rw [← heq, setBusy_eq, hpart]
  exact .beginning rs hi hb hidle hr

theorem effect_schedEnd {k : InstId} (hi : e.instr = some (.schedEnd k)) (h : execSchedEnd k s = .next t) :
    Effect s e t := by
  obtain ⟨hb, rfl⟩ := execSchedEnd_next.mp h
  obtain ⟨n, -, heq⟩ := finishes_endRun hb
  obtain ⟨j, p, rs, hpart, hr⟩ := iterate_resumeInst_part s k
    { s.inst k with busy := some (if (s.inst k).initialized then .endTransmit else .endReset) } s.pool n
  rw [← heq, setBusy_eq, hpart]
  exact .ending rs hi hb hr

theorem effect_startBegin {k : InstId} (hi : e.instr = some (.schedBegin k)) (h : startBegin k s = .next t) :
    Effect s e t := by
  by_cases hb : (s.inst k).busy = none
  · cases hidle : (s.inst k).initialized with
    | true => rw [startBegin_of_initialized hb hidle] at h; cases h
    | false =>
      rw [startBegin_of_idle hb hidle] at h
      cases h
      rw [setBusy_eq]
      exact .beginning [] hi hb hidle .refl
  · rw [startBegin_of_busy hb] at h; cases h

theorem effect_startEnd {k : InstId} (hi : e.instr = some (.schedEnd k)) (h : startEnd k s = .next t) :
    Effect s e t := by
  by_cases hb : (s.inst k).busy = none
  · rw [startEnd_of_idle hb] at h
    cases h
    rw [setBusy_eq]
    exact .ending [] hi hb .refl
  · rw [startEnd_of_busy hb] at h; cases h

/-- Running an instruction, family by family. -/
theorem exec_effect {i : Instr} (hi : e.instr = some i) (h : exec i s = .next t) : Effect s e t := by
  cases i
  case allocAcquireAny => cases h; exact .acquire _ _ (.inl hi)
  case allocAcquireInRange f l => cases h; exact .acquire _ _ (.inr ⟨f, l, hi⟩)
  case allocRelease index => cases h; exact .release hi
  case leaseAcquireAny l =>
    rw [exec_leaseAcquireAny, exec_leaseAcquireInRange] at h
    obtain ⟨-, rfl⟩ := onLease_next.mp h
    exact .leaseAcquire _ _ (.inl hi)
  case leaseAcquireInRange l f la =>
    rw [exec_leaseAcquireInRange] at h
    obtain ⟨-, rfl⟩ := onLease_next.mp h
    exact .leaseAcquire _ _ (.inr ⟨f, la, hi⟩)
  case leaseRelease l =>
    rw [exec_leaseRelease_eq_onLease] at h
    obtain ⟨-, rfl⟩ := onLease_next.mp h
    exact .leaseRelease _ (.inl hi)
  case leaseDestroy l =>
    rw [exec_leaseDestroy] at h
    obtain ⟨-, rfl⟩ := onLease_next.mp h
    exact .leaseRelease _ (.inr hi)
  case leaseDisown l =>
    rw [exec_leaseDisown] at h
    obtain ⟨-, rfl⟩ := onLease_next.mp h
    exact .leaseDisown _ hi
  case schedBegin k => exact effect_schedBegin hi h
  case schedEnd k => exact effect_schedEnd hi h
  case schedArm k on => exact effect_onInstance hi (commanded_arm ..) ((exec_schedArm on).symm.trans h)
  case schedWriteNormalized k x =>
    exact effect_onInstance hi (commanded_writeNormalized ..) ((exec_schedWriteNormalized x).symm.trans h)
  case schedSendSpecial k code =>
    exact effect_onInstance hi (commanded_sendSpecial ..) ((exec_schedSendSpecial code).symm.trans h)
  case schedReadTelemetry k => exact effect_onInstance hi (commanded_readTelemetry ..) (exec_schedReadTelemetry.symm.trans h)
  case replyErpm | replyEdtTemperature | replyEdtVoltage | replyEdtCurrent | replyEdtOther | decode =>
    cases h
    exact effect_retDecoded _
  all_goals
    cases h
    exact .logs _ _

theorem runEvent_effect (h : runEvent e s = .next t) : Effect s e t := by
  rcases runEvent_next h with ⟨i, hi, h⟩ | ⟨k, hi, h⟩ | ⟨k, hi, h⟩ | ⟨k, he, rfl⟩ | ⟨code, -, -, rfl⟩
  · exact exec_effect hi h
  · exact effect_startBegin hi h
  · exact effect_startEnd hi h
  · rcases resumeInst_effect k s with ⟨-, heq⟩ | ⟨j, p, rs, hr, heq⟩
    · rw [heq]; exact .logs _ _
    · rw [heq]; exact .resumed rs he hr
  · exact .logs _ _

/-- A step that goes on is the effect of the agenda's first event on the state past it, or nothing. -/
theorem step_effect (h : step s = .next t) :
    s.configured = true ∧
      (t = s ∨ ∃ e rest, s.agenda = e :: rest ∧ s.nextInstr = e.instr ∧ Effect { s with agenda := rest } e t) := by
  obtain ⟨hc, ⟨-, rfl⟩ | ⟨e, rest, ha, h⟩⟩ := step_next h
  · exact ⟨hc, .inl rfl⟩
  · exact ⟨hc, .inr ⟨e, rest, ha, by simp [State.nextInstr, ha], runEvent_effect h⟩⟩

end

end Sys2Proof.Proofs.WholeMachine

/-! PROOFS. What a step does to one instance, and what follows of the whole machine (rules R20 to R25, R37, R68, R74, R240). -/

namespace Sys2Proof.Proofs.WholeMachine
open Sys2Proof Sys2Proof.Machine Sys2Proof.Laws Sys2Proof.Proofs.Lifecycle Sys2Proof.Proofs.Commands
  Sys2Proof.Proofs.ChannelAllocator Sys2Proof.Proofs.EscLinkScheduler
  Sys2Proof.Proofs.Leases
open Relation (ReflTransGen)
open Claims (names namesLease clockReading givenBack)

/-! ### What an event does to one instance -/

/-- One resumed step of an instance, whatever the pool is. -/
def InstAdvance (c : Config) (k : InstId) (i j : Instance) : Prop := ∃ p q rs, Resumed c k i p j q rs

/-- Everything an event can do to instance `k`. -/
inductive InstMove (c : Config) (k : InstId) (e : Event) (i : Instance) : Instance → Prop
  | stays : InstMove c k e i i
  | command {instr : Instr} {j : Instance} (hi : e.instr = some instr) (hb : i.busy = none) (hc : Commanded c k i instr j) :
      InstMove c k e i j
  | beginning {j : Instance} (hi : e.instr = some (.schedBegin k)) (hb : i.busy = none) (hidle : i.initialized = false)
      (hr : ReflTransGen (InstAdvance c k) { i with busy := some .beginTx } j) : InstMove c k e i j
  | ending {j : Instance} (hi : e.instr = some (.schedEnd k)) (hb : i.busy = none)
      (hr : ReflTransGen (InstAdvance c k)
        { i with busy := some (if i.initialized then .endTransmit else .endReset) } j) : InstMove c k e i j
  | resumed {j : Instance} (he : e = .resume k) (hr : InstAdvance c k i j) : InstMove c k e i j

section
variable {s t : State} {e : Event} {c : Config} {k : InstId} {i j : Instance}

/-- The steps of an operation in flight, seen on the instance alone. -/
theorem instAdvance_of_advance {p q : List Bool} (h : ReflTransGen (Advance c k) (i, p) (j, q)) :
    ReflTransGen (InstAdvance c k) i j :=
  ReflTransGen.lift Prod.fst (fun x y ⟨rs, h⟩ => ⟨x.2, y.2, rs, h⟩) _ _ h

/-- A change of one instance leaves the others. -/
theorem instMove_part {k' : InstId} {p : List Bool} {rs : List Result}
    (h : InstMove (s.instCfg k') k' e (s.inst k') j) (k : InstId) :
    InstMove (s.instCfg k) k e (s.inst k) ((part s k' j p rs).inst k) := by
  by_cases hk : k = k'
  · subst hk
    rwa [part_inst_same]
  · rw [part_inst_other _ _ _ _ hk]
    exact .stays

theorem instMove_of_effect (h : Effect s e t) (k : InstId) : InstMove (s.instCfg k) k e (s.inst k) (t.inst k) := by
  cases h with
  | logs | acquire | release | leaseAcquire | leaseRelease | leaseDisown => exact .stays
  | command r hi hb hc => exact instMove_part (.command hi hb hc) k
  | beginning rs hi hb hidle hr => exact instMove_part (.beginning hi hb hidle (instAdvance_of_advance hr)) k
  | ending rs hi hb hr => exact instMove_part (.ending hi hb (instAdvance_of_advance hr)) k
  | resumed rs he hr =>
    obtain ⟨rs', hr⟩ := hr
    exact instMove_part (.resumed he ⟨_, _, rs', hr⟩) k

/-- What a step does to an instance. -/
theorem step_inst (h : step s = .next t) (k : InstId) :
    t.inst k = s.inst k ∨
    ∃ e, s.agenda.head? = some e ∧ s.nextInstr = e.instr ∧ InstMove (s.instCfg k) k e (s.inst k) (t.inst k) := by
  obtain ⟨-, rfl | ⟨e, rest, ha, hi, h⟩⟩ := step_effect h
  · exact .inl rfl
  · exact .inr ⟨e, by rw [ha]; rfl, hi, instMove_of_effect h k⟩

/-- A preorder on instances that every single move follows is followed by a step. -/
theorem instMove_follows {R : Instance → Instance → Prop} (hrefl : ∀ i, R i i) (htrans : ∀ {i j l}, R i j → R j l → R i l)
    (hcommand : ∀ instr j, e.instr = some instr → Commanded c k i instr j → R i j)
    (hbusy : ∀ b, R i { i with busy := b }) (hadvance : ∀ {i j}, InstAdvance c k i j → R i j) (h : InstMove c k e i j) :
    R i j := by
  have hsteps : ∀ {i j}, ReflTransGen (InstAdvance c k) i j → R i j := by
    intro i j hr
    induction hr with
    | refl => exact hrefl _
    | tail _ hstep ih => exact htrans ih (hadvance hstep)
  cases h with
  | stays => exact hrefl _
  | command hi hb hc => exact hcommand _ _ hi hc
  | beginning hi hb hidle hr => exact htrans (hbusy _) (hsteps hr)
  | ending hi hb hr => exact htrans (hbusy _) (hsteps hr)
  | resumed he hr => exact hadvance hr

/-! ### An instance moves only by its own events -/

theorem names_of_commanded {instr : Instr} (hi : e.instr = some instr) (hc : Commanded c k i instr j) : names e k := by
  refine .inr ⟨instr, hi, ?_⟩
  cases hc with
  | arm => exact .inr (.inl ⟨true, rfl⟩)
  | disarm | disarmIdle => exact .inr (.inl ⟨false, rfl⟩)
  | writeIgnored x | write => exact .inr (.inr (.inl ⟨_, rfl⟩))
  | specialIgnored code | special => exact .inr (.inr (.inr (.inl ⟨_, rfl⟩)))
  | read => exact .inr (.inr (.inr (.inr (.inl rfl))))

theorem names_of_instMove (h : InstMove c k e i j) : j = i ∨ names e k := by
  cases h with
  | stays => exact .inl rfl
  | command hi hb hc => exact .inr (names_of_commanded hi hc)
  | beginning hi => exact .inr (.inr ⟨_, hi, .inl rfl⟩)
  | ending hi => exact .inr (.inr ⟨_, hi, .inr (.inr (.inr (.inr (.inr rfl))))⟩)
  | resumed he => exact .inr (.inl he)

/-! ### Constants and the clock -/

/-- The copies of the configuration are the same. -/
def SameConstants (i j : Instance) : Prop :=
  j.periodUs = i.periodUs ∧ j.divisor = i.divisor ∧ j.polePairs = i.polePairs

theorem gatedLeaves_sameConstants {v : U11} {b : Bool} (h : GatedLeaves c k v i b j) : SameConstants i j := by
  cases h <;> exact ⟨rfl, rfl, rfl⟩

theorem commanded_sameConstants {instr : Instr} (h : Commanded c k i instr j) : SameConstants i j := by
  cases h with
  | write hc hh hg =>
    have h := gatedLeaves_sameConstants hg
    exact h
  | special hc hg => exact gatedLeaves_sameConstants hg
  | _ => exact ⟨rfl, rfl, rfl⟩

theorem instAdvance_sameConstants (h : InstAdvance c k i j) : SameConstants i j := by
  obtain ⟨p, q, rs, h⟩ := h
  cases h <;> exact ⟨rfl, rfl, rfl⟩

theorem instMove_sameConstants (h : InstMove c k e i j) : SameConstants i j :=
  instMove_follows (fun _ => ⟨rfl, rfl, rfl⟩)
    (fun ⟨h1, h2, h3⟩ ⟨g1, g2, g3⟩ => ⟨g1.trans h1, g2.trans h2, g3.trans h3⟩)
    (fun _ _ _ => commanded_sameConstants) (fun _ => ⟨rfl, rfl, rfl⟩) instAdvance_sameConstants h

theorem gatedLeaves_time {v : U11} {b : Bool} (h : GatedLeaves c k v i b j) : i.env.time ≤ j.env.time := by
  have hclock : i.env.time ≤ clockReading k i := Nat.le_add_right _ _
  cases h <;> exact hclock

theorem commanded_time {instr : Instr} (h : Commanded c k i instr j) : i.env.time ≤ j.env.time := by
  cases h with
  | write hc hh hg =>
    have h := gatedLeaves_time hg
    exact h
  | special hc hg => exact gatedLeaves_time hg
  | _ => exact le_rfl

theorem instAdvance_time (h : InstAdvance c k i j) : j.env.time = i.env.time := by
  obtain ⟨p, q, rs, h⟩ := h
  cases h <;> rfl

theorem instMove_time (h : InstMove c k e i j) : i.env.time ≤ j.env.time :=
  instMove_follows (R := fun i j => i.env.time ≤ j.env.time) (fun _ => le_rfl) le_trans (fun _ _ _ => commanded_time)
    (fun _ => le_rfl) (fun h => (instAdvance_time h).ge) h

/-- The whole configuration stays as it is. -/
theorem effect_cfg (h : Effect s e t) : t.cfg = s.cfg ∧ t.instCfgs = s.instCfgs := by
  cases h <;> exact ⟨rfl, rfl⟩

theorem step_cfg (h : step s = .next t) : t.cfg = s.cfg ∧ t.instCfgs = s.instCfgs := by
  obtain ⟨-, rfl | ⟨e, rest, -, -, h⟩⟩ := step_effect h
  · exact ⟨rfl, rfl⟩
  · exact effect_cfg (s := { s with agenda := rest }) h

/-! ### Leases and the pool -/

theorem resumed_pool_length {p q : List Bool} {rs : List Result} (h : Resumed c k i p j q rs) : q.length = p.length := by
  have hback (L : Lease) : (givenBack L p).length = p.length := by
    rw [← leaseRelease_length L p, leaseRelease_eq_givenBack]
  cases h <;> simp [hback]

theorem advance_pool_length {x y : Instance × List Bool} (h : ReflTransGen (Advance c k) x y) :
    y.2.length = x.2.length := by
  induction h with
  | refl => rfl
  | tail _ hstep ih =>
    obtain ⟨rs, hstep⟩ := hstep
    exact (resumed_pool_length hstep).trans ih

theorem effect_pool_length (h : Effect s e t) : t.pool.length = s.pool.length := by
  cases h with
  | logs | leaseDisown | command => rfl
  | acquire => exact poolAcquire_length ..
  | release => exact poolRelease_length ..
  | leaseAcquire => exact leaseAcquire_length ..
  | leaseRelease => exact leaseRelease_length ..
  | beginning rs hi hb hidle hr => exact advance_pool_length hr
  | ending rs hi hb hr => exact advance_pool_length hr
  | resumed rs he hr => exact advance_pool_length (.single hr)

theorem lease_setLease_eq_or (s : State) (l l' : LeaseId) (v : LeaseSlot) :
    (s.setLease l' v).lease l = s.lease l ∨ l = l' :=
  or_iff_not_imp_right.mpr (lease_setLease_other s l' l v)

/-- Each operation of a lease names the lease it writes. -/
theorem effect_lease (h : Effect s e t) (l : LeaseId) :
    t.lease l = s.lease l ∨ ∃ i, e.instr = some i ∧ namesLease i l := by
  cases h with
  | logs | acquire | release | command | beginning | ending | resumed => exact .inl rfl
  | leaseAcquire first last hi =>
    refine (lease_setLease_eq_or (s.setPool _) l _ _).imp_right ?_
    rintro rfl
    rcases hi with hi | ⟨f, la, hi⟩
    · exact ⟨_, hi, .inl rfl⟩
    · exact ⟨_, hi, .inr (.inl ⟨f, la, rfl⟩)⟩
  | leaseRelease destroy hi =>
    refine (lease_setLease_eq_or (s.setPool _) l _ _).imp_right ?_
    rintro rfl
    rcases hi with hi | hi
    · exact ⟨_, hi, .inr (.inr (.inl rfl))⟩
    · exact ⟨_, hi, .inr (.inr (.inr (.inl rfl)))⟩
  | leaseDisown r hi =>
    refine (lease_setLease_eq_or s l _ _).imp_right ?_
    rintro rfl
    exact ⟨_, hi, .inr (.inr (.inr (.inr rfl)))⟩

/-- The writers of the pool. -/
theorem effect_pool (h : Effect s e t) :
    t.pool = s.pool ∨
      e.instr = some .allocAcquireAny ∨ (∃ first last, e.instr = some (.allocAcquireInRange first last)) ∨
      (∃ index, e.instr = some (.allocRelease index)) ∨ (∃ l, e.instr = some (.leaseAcquireAny l)) ∨
      (∃ l first last, e.instr = some (.leaseAcquireInRange l first last)) ∨
      (∃ l, e.instr = some (.leaseRelease l)) ∨ (∃ l, e.instr = some (.leaseDestroy l)) ∨
      (∃ k, e.instr = some (.schedBegin k)) ∨ (∃ k, e.instr = some (.schedEnd k)) ∨ ∃ k, e = .resume k := by
  cases h with
  | logs | leaseDisown | command => exact .inl rfl
  | acquire first last hi => rcases hi with hi | ⟨f, l, hi⟩ <;> simp [hi]
  | release hi => simp [hi]
  | leaseAcquire first last hi => rcases hi with hi | ⟨f, l, hi⟩ <;> simp [hi]
  | leaseRelease destroy hi => rcases hi with hi | hi <;> simp [hi]
  | beginning rs hi => simp [hi]
  | ending rs hi => simp [hi]
  | resumed rs he => simp [he]

/-- The canonical form is kept by a change of one instance and of the pool. -/
theorem wf_part {p : List Bool} {rs : List Result} (hp : p.length = s.pool.length) (h : Memory.wf s = true) :
    Memory.wf (part s k i p rs) = true :=
  wf_setInst k i (wf_setPool p hp h)

theorem effect_wf (h : Effect s e t) (hwf : Memory.wf s = true) : Memory.wf t = true := by
  cases h with
  | logs => exact hwf
  | acquire first last => exact wf_poolAcquire first last hwf
  | release => exact wf_poolRelease _ hwf
  | leaseAcquire first last => exact wf_setLease _ _ (wf_leaseAcquire first last _ hwf)
  | leaseRelease destroy => exact wf_setLease _ _ (wf_leaseRelease _ hwf)
  | leaseDisown => exact wf_setLease _ _ hwf
  | command => exact wf_part rfl hwf
  | beginning rs hi hb hidle hr => exact wf_part (advance_pool_length hr) hwf
  | ending rs hi hb hr => exact wf_part (advance_pool_length hr) hwf
  | resumed rs he hr => exact wf_part (advance_pool_length (.single hr)) hwf

end

/-! ### The obligations -/

/-- Settles O47, effect by effect. -/
theorem everyStepKeepsTheCanonicalForm : Obligations.EveryStepKeepsTheCanonicalForm := by
  intro s t hwf h
  obtain ⟨-, rfl | ⟨e, rest, -, -, h⟩⟩ := step_effect h
  · exact hwf
  · exact effect_wf h hwf

/-- Settles O52: every move of an instance comes of an event that names it. -/
theorem instancesChangeOnlyByTheirOwnEvents : Obligations.InstancesChangeOnlyByTheirOwnEvents := by
  intro s t k h hother
  rcases step_inst h k with heq | ⟨e, ha, -, hmove⟩
  · exact heq
  · exact (names_of_instMove hmove).resolve_right (hother e ha)

/-- Settles O53. -/
theorem configurationNeverChanges : Obligations.ConfigurationNeverChanges := by
  intro s t h
  obtain ⟨hcfg, hown⟩ := step_cfg h
  refine ⟨hcfg, hown, fun k => ?_⟩
  rcases step_inst h k with heq | ⟨e, -, -, hmove⟩
  · rw [heq]
    exact ⟨rfl, rfl, rfl⟩
  · exact instMove_sameConstants hmove

/-- Settles O57: only a reading of the clock moves it, and upwards. -/
theorem clockNeverRunsBackwards : Obligations.ClockNeverRunsBackwards := by
  intro s t k h
  rcases step_inst h k with heq | ⟨e, -, -, hmove⟩
  · rw [heq]
  · exact instMove_time hmove

/-- Settles O59, effect by effect. -/
theorem leasesChangeOnlyByTheirOwnOperations : Obligations.LeasesChangeOnlyByTheirOwnOperations := by
  intro s t l h hother
  obtain ⟨-, rfl | ⟨e, rest, -, hi, h⟩⟩ := step_effect h
  · rfl
  · refine (effect_lease h l).resolve_right fun ⟨i, hi', hn⟩ => hother i (hi.trans hi') hn

/-- Settles O56, effect by effect. -/
theorem poolHasItsWritersOnly : Obligations.PoolHasItsWritersOnly := by
  intro s t h
  obtain ⟨-, rfl | ⟨e, rest, ha, hi, h⟩⟩ := step_effect h
  · exact ⟨rfl, fun hne => absurd rfl hne⟩
  · have hlength := effect_pool_length h
    refine ⟨hlength, fun hne => ?_⟩
    have hwriter := (effect_pool h).resolve_left hne
    simpa [hi, ha] using hwriter

end Sys2Proof.Proofs.WholeMachine

/-! PROOFS. What reaches the wire, and how the link moves (rules R206, R251, R273). -/

namespace Sys2Proof.Proofs.WholeMachine
open Sys2Proof Sys2Proof.Machine Sys2Proof.Laws Sys2Proof.Proofs.Lifecycle Sys2Proof.Proofs.Commands
open Relation (ReflTransGen)
open Claims (AtLeast AtMost cadenceFrame)

section
variable {e : Event} {c : Config} {k : InstId} {i j : Instance}

/-! ### Frames -/

theorem gatedLeaves_txLog {v : U11} {b : Bool} (h : GatedLeaves c k v i b j) :
    j.txLog = i.txLog ∨ j.txLog = i.txLog ++ [cadenceFrame i v] := by
  cases h with
  | dropped => exact .inl rfl
  | transmitted => exact (ite_eq_or_eq _ _ _).symm
  | windowEmpty | windowInvalid | windowRead => exact (ite_eq_or_eq _ _ _).symm

theorem commanded_txLog {instr : Instr} (h : Commanded c k i instr j) (hne : j.txLog ≠ i.txLog) :
    (∃ x, instr = .schedWriteNormalized k x) ∨ (∃ code, instr = .schedSendSpecial k code) ∨ instr = .schedArm k false := by
  cases h with
  | arm | disarmIdle | read | writeIgnored | specialIgnored => exact absurd rfl hne
  | disarm => exact .inr (.inr rfl)
  | write => exact .inl ⟨_, rfl⟩
  | special => exact .inr (.inl ⟨_, rfl⟩)

/-- Of the steps in flight only the idle transmission of an `end` sends. -/
theorem instAdvance_txLog (h : InstAdvance c k i j) : j.txLog = i.txLog ∨ i.busy = some .endTransmit := by
  obtain ⟨p, q, rs, h⟩ := h
  cases h with
  | endTransmit hb => exact .inr hb
  | _ => exact .inl rfl

/-- No step leads to the idle transmission: it is the first of an `end`. -/
theorem instAdvance_busy (h : InstAdvance c k i j) : j.busy ≠ some .endTransmit := by
  obtain ⟨p, q, rs, h⟩ := h
  cases h with
  | beginTxTaken => cases c.bidir <;> simp
  | _ => simp

theorem beginning_txLog (h : ReflTransGen (InstAdvance c k) i j) (hb : i.busy ≠ some .endTransmit) :
    j.txLog = i.txLog ∧ j.busy ≠ some .endTransmit := by
  induction h with
  | refl => exact ⟨rfl, hb⟩
  | tail _ hstep ih =>
    obtain ⟨hlog, hbusy⟩ := ih
    exact ⟨((instAdvance_txLog hstep).resolve_right hbusy).trans hlog, instAdvance_busy hstep⟩

/-! ### The link -/

theorem gatedLeaves_link {v : U11} {b : Bool} (h : GatedLeaves c k v i b j) : j.link = i.link := by
  cases h <;> rfl

/-- A step in flight keeps the link or disarms it. -/
theorem instAdvance_link (h : InstAdvance c k i j) : j.link = i.link ∨ j.link = .disarmed := by
  obtain ⟨p, q, rs, h⟩ := h
  cases h with
  | configured | endTx | endReset => exact .inr rfl
  | _ => exact .inl rfl

theorem reached_link (h : ReflTransGen (InstAdvance c k) i j) : j.link = i.link ∨ j.link = .disarmed := by
  induction h with
  | refl => exact .inl rfl
  | tail _ hstep ih =>
    rcases instAdvance_link hstep with heq | hdis
    · rwa [heq]
    · exact .inr hdis

/-- The four rows of the transition table that a command can take. -/
theorem commanded_link {instr : Instr} (h : Commanded c k i instr j) (hne : j.link ≠ i.link) :
    (i.link = .disarmed ∧ j.link = .armedZero ∧ instr = .schedArm k true) ∨
    (i.link = .armedZero ∧ j.link = .armedActive ∧ i.initialized = true ∧
      ∃ x, instr = .schedWriteNormalized k x ∧ AtLeast x (1 / 25)) ∨
    (i.link = .armedActive ∧ j.link = .armedZero ∧ i.initialized = true ∧
      ∃ x, instr = .schedWriteNormalized k x ∧ AtMost x (1 / 50)) ∨
    (j.link = .disarmed ∧ instr = .schedArm k false) := by
  cases h with
  | arm =>
    by_cases hd : i.link = .disarmed
    · exact .inl ⟨hd, if_pos hd, rfl⟩
    · exact absurd (if_neg hd) hne
  | disarm | disarmIdle => exact .inr (.inr (.inr ⟨rfl, rfl⟩))
  | writeIgnored | specialIgnored | read => exact absurd rfl hne
  | special hc hg => exact absurd (gatedLeaves_link hg) hne
  | write hc hh hg =>
    have hlink := gatedLeaves_link hg
    dsimp only at hlink
    have hi := (commandable_iff.mp hc).1
    rcases hh with ⟨h0, hx, h1, -⟩ | ⟨h0, -, h1, -⟩ | ⟨h0, hx, h1, -⟩ | ⟨h0, -, h1, -⟩
    · exact .inr (.inl ⟨h0, hlink.trans h1, hi, _, rfl, hx⟩)
    · exact absurd (hlink.trans (h1.trans h0.symm)) hne
    · exact .inr (.inr (.inl ⟨h0, hlink.trans h1, hi, _, rfl, hx⟩))
    · exact absurd (hlink.trans (h1.trans h0.symm)) hne

end

/-! ### The obligations -/

/-- Settles O54: a command that sends, or the first step of an `end`. -/
theorem framesComeFromCommandsOnly : Obligations.FramesComeFromCommandsOnly := by
  intro s t k h hne
  rcases step_inst h k with heq | ⟨e, ha, hi, hmove⟩
  · exact absurd (by rw [heq]) hne
  · rw [hi]
    generalize hj : t.inst k = j at hmove hne
    cases hmove with
    | stays => exact absurd rfl hne
    | command hinstr hb hc =>
      rw [hinstr]
      rcases commanded_txLog hc hne with ⟨x, rfl⟩ | ⟨code, rfl⟩ | rfl
      · exact .inl ⟨x, rfl⟩
      · exact .inr (.inl ⟨code, rfl⟩)
      · exact .inr (.inr (.inl rfl))
    | beginning hinstr hb hidle hr => exact absurd (beginning_txLog hr (by simp)).1 hne
    | ending hinstr hb hr => exact .inr (.inr (.inr (.inl hinstr)))
    | resumed he hr =>
      refine .inr (.inr (.inr (.inr ⟨he ▸ ha, (instAdvance_txLog hr).resolve_left hne⟩)))

/-- Settles O55: the rows a command takes, and the disarming of `begin` and `end`. -/
theorem linkFollowsItsTransitionTable : Obligations.LinkFollowsItsTransitionTable := by
  intro s t k h hne
  rcases step_inst h k with heq | ⟨e, ha, hi, hmove⟩
  · exact absurd (by rw [heq]) hne
  · rw [hi]
    generalize hj : t.inst k = j at hmove hne
    cases hmove with
    | stays => exact absurd rfl hne
    | command hinstr hb hc =>
      rw [hinstr]
      rcases commanded_link hc hne with ⟨h0, h1, rfl⟩ | ⟨h0, h1, hinit, x, rfl, hx⟩ | ⟨h0, h1, hinit, x, rfl, hx⟩ | ⟨h1, rfl⟩
      · exact .inl ⟨h0, h1, rfl⟩
      · exact .inr (.inl ⟨h0, h1, hinit, x, rfl, hx⟩)
      · exact .inr (.inr (.inl ⟨h0, h1, hinit, x, rfl, hx⟩))
      · exact .inr (.inr (.inr ⟨h1, .inl rfl⟩))
    | beginning hinstr hb hidle hr =>
      exact .inr (.inr (.inr ⟨(reached_link hr).resolve_left hne, .inr (.inl hinstr)⟩))
    | ending hinstr hb hr =>
      exact .inr (.inr (.inr ⟨(reached_link hr).resolve_left hne, .inr (.inr (.inl hinstr))⟩))
    | resumed he hr =>
      exact .inr (.inr (.inr ⟨(instAdvance_link hr).resolve_left hne, .inr (.inr (.inr (he ▸ ha)))⟩))

end Sys2Proof.Proofs.WholeMachine

/-! PROOFS. The invariants every step keeps (rules R27, R30 to R36, R185), and command values below 48 (rule R274). -/

namespace Sys2Proof.Proofs.WholeMachine
open Sys2Proof Sys2Proof.Machine Sys2Proof.Laws Sys2Proof.Proofs.Lifecycle Sys2Proof.Proofs.Commands
  Sys2Proof.Proofs.PacketCodec Sys2Proof.Proofs.Throttle Sys2Proof.Proofs.Step Sys2Proof.Proofs.Transcoder
open Relation (ReflTransGen)
open Claims (afterTransmit restarted)

/-! ### An instance's configuration -/

theorem tableFind_eq_or_mem {α : Type} (d : α) (name : Nat) (t : List (Nat × α)) :
    tableFind d name t = d ∨ ∃ e ∈ t, tableFind d name t = e.2 := by
  induction t with
  | nil => exact .inl rfl
  | cons e rest ih =>
    by_cases h : e.1 = name
    · exact .inr ⟨e, List.mem_cons_self, if_pos h⟩
    · have hrest : tableFind d name (e :: rest) = tableFind d name rest := if_neg h
      rw [hrest]
      exact ih.imp_right fun ⟨e', he', heq⟩ => ⟨e', List.mem_cons_of_mem _ he', heq⟩

theorem configWf_instCfg {s : State} (hc : s.configured = true) (k : InstId) : configWf (s.instCfg k) = true := by
  obtain ⟨hcfg, hown⟩ := (configured_iff s).mp hc
  rcases tableFind_eq_or_mem s.cfg k s.instCfgs with heq | ⟨e, he, heq⟩
  · rw [State.instCfg, heq]
    exact hcfg
  · rw [State.instCfg, heq]
    exact (hown e he).1

/-! ### Command values below 48 -/

/-- From `i` to `j` only frames with a command value of 48 or more were sent. -/
def SendsThrottleOnly (i j : Instance) : Prop :=
  ∃ sent, j.txLog = i.txLog ++ sent ∧ ∀ w ∈ sent, 48 ≤ (w.extractLsb' 5 11 : U11).toNat

theorem SendsThrottleOnly.of_eq {i j : Instance} (h : j.txLog = i.txLog) : SendsThrottleOnly i j :=
  ⟨[], by rw [h, List.append_nil], by simp⟩

theorem SendsThrottleOnly.trans {i j l : Instance} (h : SendsThrottleOnly i j) (g : SendsThrottleOnly j l) :
    SendsThrottleOnly i l := by
  obtain ⟨sent, hlog, hsent⟩ := h
  obtain ⟨sent', hlog', hsent'⟩ := g
  exact ⟨sent ++ sent', by rw [hlog', hlog, List.append_assoc],
    fun w hw => (List.mem_append.mp hw).elim (hsent w) (hsent' w)⟩

theorem buildFrame_value (v : U11) (t : Bit) : (buildFrame v t).extractLsb' 5 11 = v := by
  rw [buildFrame_eq_frameWord]
  exact (Laws.RoundTrip.frame_fields v t _).1

theorem SendsThrottleOnly.of_frame {i j : Instance} {v : U11} {t : Bit} (hv : 48 ≤ v.toNat)
    (h : j.txLog = i.txLog ∨ j.txLog = i.txLog ++ [buildFrame v t]) : SendsThrottleOnly i j := by
  rcases h with h | h
  · exact .of_eq h
  · refine ⟨[buildFrame v t], h, fun w hw => ?_⟩
    rw [List.mem_singleton.mp hw, buildFrame_value]
    exact hv

section
variable {e : Event} {c : Config} {k : InstId} {i j : Instance} (hidle : 48 ≤ c.idleCode.toNat)
include hidle

theorem sendsThrottleOnly_idle (i : Instance) :
    SendsThrottleOnly i (afterTransmit c k (buildFrame c.idleCode 0#1) i) :=
  .of_frame hidle (ite_eq_or_eq _ _ _).symm

theorem instAdvance_sendsThrottleOnly (h : InstAdvance c k i j) : SendsThrottleOnly i j := by
  obtain ⟨p, q, rs, h⟩ := h
  cases h with
  | endTransmit => exact sendsThrottleOnly_idle hidle i
  | _ => exact .of_eq rfl

theorem commanded_sendsThrottleOnly {instr : Instr} (hc : configWf c = true)
    (hspecial : ∀ code, instr ≠ .schedSendSpecial k code) (h : Commanded c k i instr j) : SendsThrottleOnly i j := by
  cases h with
  | arm | disarmIdle | writeIgnored | specialIgnored | read => exact .of_eq rfl
  | disarm => exact sendsThrottleOnly_idle hidle i
  | @write x used link b _ _ _ hg =>
    have hv := (encodeThrottle_bounds hc used).1
    have hlog := gatedLeaves_txLog hg
    exact .of_frame (v := Machine.encodeThrottle c used) (by omega) hlog
  | special => exact absurd rfl (hspecial _)

end

/-- Settles O46: the throttle path sends MIN_CODE or more, the idle path IDLE_CODE. -/
theorem throttleAndIdleNeverSendCodeZero : Obligations.ThrottleAndIdleNeverSendCodeZero := by
  intro s t k hidle hspecial h
  show SendsThrottleOnly (s.inst k) (t.inst k)
  rcases step_inst h k with heq | ⟨e, -, hi, hmove⟩
  · exact .of_eq (by rw [heq])
  · have hc := configWf_instCfg (step_effect h).1 k
    refine instMove_follows (R := SendsThrottleOnly) (fun _ => .of_eq rfl) .trans (fun instr j hinstr hcmd => ?_)
      (fun _ => .of_eq rfl) (instAdvance_sendsThrottleOnly hidle) hmove
    refine commanded_sendsThrottleOnly hidle hc (fun code hcode => hspecial code ?_) hcmd
    rw [hi, hinstr, hcode]

/-! ### The scheduler's invariant -/

/-- A cache of decoded frames only, fresh only with one (rules R36, R204). -/
def CacheSound (cache : Cache) : Prop :=
  (∀ f, cache.frame = some f → f.decoded) ∧ (cache.fresh = true → cache.frame ≠ none)

theorem cacheSound_initial : CacheSound Cache.initial := ⟨nofun, nofun⟩

theorem cacheSound_update (c : Config) (polePairs : Nat) {f : TelemetryFrame} (old : Cache) (h : f.decoded) :
    CacheSound (cacheUpdate c polePairs f old) := by
  obtain ⟨-, hframe, -⟩ := cacheUpdateWritesOneScalar c polePairs f old
  refine ⟨fun g hg => ?_, fun _ => ?_⟩
  · obtain rfl := Option.some.inj (hframe.symm.trans hg)
    exact h
  · rw [hframe]
    exact Option.some_ne_none f

section
variable {e : Event} {c : Config} {k : InstId} {i j : Instance}

theorem sound_iff :
    i.sound c ↔ i.periodUs = c.periodUs ∧ i.divisor = c.telemetryDivisor ∧ i.polePairs = c.polePairs ∧
      i.counter < i.divisor ∧ CacheSound i.cache ∧ i.leasesAgree c.bidir := by
  simp only [Instance.sound, CacheSound, and_assoc]

/-- What is left to show of an instance whose copies of the configuration are the same. -/
theorem sound_of_sameConstants (hs : i.sound c) (hconst : SameConstants i j) (hcounter : j.counter < j.divisor)
    (hcache : CacheSound j.cache) (hagree : j.leasesAgree c.bidir) : j.sound c := by
  obtain ⟨hperiod, hdivisor, hpoles, -⟩ := hs
  obtain ⟨h1, h2, h3⟩ := hconst
  exact sound_iff.mpr ⟨h1.trans hperiod, h2.trans hdivisor, h3.trans hpoles, hcounter, hcache, hagree⟩

/-- A gated transmission moves the counter below the divisor and caches what decodes; it leaves the leases. -/
theorem gatedLeaves_sound {v : U11} {b : Bool} (h : GatedLeaves c k v i b j) (hs : i.sound c) : j.sound c := by
  obtain ⟨-, -, -, hcounter, hcache, hagree⟩ := sound_iff.mp hs
  have hgate : (if i.divisor ≤ i.counter + 1 then 0 else i.counter + 1) < i.divisor := by
    split <;> omega
  refine sound_of_sameConstants hs (gatedLeaves_sameConstants h) ?_ ?_ ?_
  · cases h with
    | dropped => exact hcounter
    | _ => exact hgate
  · cases h with
    | windowRead hdue hsent hf => exact cacheSound_update c _ _ (decodeReply_decoded hf)
    | _ => exact hcache
  · cases h <;> exact hagree

theorem commanded_sound {instr : Instr} (h : Commanded c k i instr j) (hs : i.sound c) : j.sound c := by
  cases h with
  | arm | disarm | disarmIdle | writeIgnored | specialIgnored => exact hs
  | write hc hh hg => exact gatedLeaves_sound hg hs
  | special hc hg => exact gatedLeaves_sound hg hs
  | read =>
    obtain ⟨-, -, -, hcounter, ⟨hdecoded, -⟩, hagree⟩ := sound_iff.mp hs
    exact sound_of_sameConstants hs ⟨rfl, rfl, rfl⟩ hcounter ⟨hdecoded, nofun⟩ hagree

/-- Leaving in flight changes only where the instance stands. -/
theorem sound_setBusy {ph : Option Phase} (hs : i.sound c)
    (hagree : ({ i with busy := ph } : Instance).leasesAgree c.bidir) : ({ i with busy := ph } : Instance).sound c := by
  obtain ⟨-, -, -, hcounter, hcache, -⟩ := sound_iff.mp hs
  exact sound_of_sameConstants hs ⟨rfl, rfl, rfl⟩ hcounter hcache hagree

/-- Each step of a `begin` or an `end` leaves the leases as the next expects them. -/
theorem resumed_leasesAgree {p q : List Bool} {rs : List Result} (h : Resumed c k i p j q rs)
    (hagree : i.leasesAgree c.bidir) : j.leasesAgree c.bidir := by
  unfold Instance.leasesAgree at hagree
  cases h with
  | beginTxTaken hb =>
    rw [hb] at hagree
    obtain ⟨hidle, -, hrx⟩ := hagree
    cases hbidir : c.bidir with
    | true => exact ⟨hidle, rfl, hrx, rfl⟩
    | false => exact ⟨hidle, rfl, by rw [hrx]; rfl⟩
  | beginTxNone hb =>
    rw [hb] at hagree
    obtain ⟨hidle, -, hrx⟩ := hagree
    simp [Instance.leasesAgree, hidle, hrx]
  | beginRxTaken hb =>
    rw [hb] at hagree
    obtain ⟨hidle, htx, -, hbidir⟩ := hagree
    exact ⟨hidle, htx, hbidir.symm⟩
  | beginRxNone hb | undoRx hb =>
    rw [hb] at hagree
    exact ⟨hagree.1, rfl⟩
  | configured hb =>
    rw [hb] at hagree
    obtain ⟨-, htx, hrx⟩ := hagree
    exact ⟨htx, hrx⟩
  | notConfigured hb =>
    rw [hb] at hagree
    obtain ⟨hidle, htx, -⟩ := hagree
    exact ⟨hidle, htx⟩
  | undoTx hb =>
    rw [hb] at hagree
    obtain ⟨hidle, hrx⟩ := hagree
    simp [Instance.leasesAgree, hidle, hrx]
  | endTransmit hb =>
    rw [hb] at hagree
    exact hagree
  | endRx hb =>
    rw [hb] at hagree
    exact ⟨hagree.1, rfl⟩
  | endTx hb =>
    rw [hb] at hagree
    simp [Instance.leasesAgree, restarted, hagree.2]
  | endReset hb =>
    rw [hb] at hagree
    obtain ⟨-, htx, hrx⟩ := hagree
    simp [Instance.leasesAgree, restarted, htx, hrx]

theorem instAdvance_sound (h : InstAdvance c k i j) (hs : i.sound c) : j.sound c := by
  obtain ⟨-, -, -, hcounter, hcache, hagree⟩ := sound_iff.mp hs
  have hconst := instAdvance_sameConstants h
  obtain ⟨p, q, rs, h⟩ := h
  refine sound_of_sameConstants hs hconst ?_ ?_ (resumed_leasesAgree h hagree)
  · cases h with
    | configured | endTx | endReset => exact Nat.zero_lt_of_lt hcounter
    | _ => exact hcounter
  · cases h with
    | configured | endTx | endReset => exact cacheSound_initial
    | _ => exact hcache

theorem reached_sound (h : ReflTransGen (InstAdvance c k) i j) (hs : i.sound c) : j.sound c := by
  induction h with
  | refl => exact hs
  | tail _ hstep ih => exact instAdvance_sound hstep ih

/-- What `initialized` says of an idle instance's leases. -/
theorem leases_of_idle (hs : i.sound c) (hb : i.busy = none) :
    i.tx.held.isSome = i.initialized ∧ i.rx.held.isSome = (i.initialized && c.bidir) := by
  obtain ⟨-, -, -, -, -, hagree⟩ := sound_iff.mp hs
  rwa [Instance.leasesAgree, hb] at hagree

theorem instMove_sound (h : InstMove c k e i j) (hs : i.sound c) : j.sound c := by
  cases h with
  | stays => exact hs
  | command hi hb hc => exact commanded_sound hc hs
  | beginning hi hb hidle hr =>
    refine reached_sound hr (sound_setBusy hs ?_)
    obtain ⟨htx, hrx⟩ := leases_of_idle hs hb
    simp only [hidle, Bool.false_and, Option.isSome_eq_false_iff, Option.isNone_iff_eq_none] at htx hrx
    exact ⟨hidle, htx, hrx⟩
  | ending hi hb hr =>
    refine reached_sound hr (sound_setBusy hs ?_)
    obtain ⟨htx, hrx⟩ := leases_of_idle hs hb
    cases hinit : i.initialized with
    | true => exact ⟨rfl, htx.trans hinit⟩
    | false =>
      simp only [hinit, Bool.false_and, Option.isSome_eq_false_iff, Option.isNone_iff_eq_none] at htx hrx
      exact ⟨rfl, htx, hrx⟩
  | resumed he hr => exact instAdvance_sound hr hs

end

/-- Settles O48: the configuration stays, and each instance's move keeps it sound. -/
theorem everyStepKeepsTheSchedulerInvariant : Obligations.EveryStepKeepsTheSchedulerInvariant := by
  intro s t hinv h
  obtain ⟨hc, hsound⟩ := hinv
  obtain ⟨hcfg, hown⟩ := step_cfg h
  refine ⟨?_, fun k => ?_⟩
  · rwa [State.configured, hcfg, hown]
  · have hk : t.instCfg k = s.instCfg k := by rw [State.instCfg, State.instCfg, hcfg, hown]
    rw [hk]
    rcases step_inst h k with heq | ⟨e, -, -, hmove⟩
    · rw [heq]
      exact hsound k
    · exact instMove_sound hmove (hsound k)

end Sys2Proof.Proofs.WholeMachine

/-! PROOFS. Leases own their pool entries exclusively (rules R27, R185, R270): what each use of the pool does to the owners,
then each effect of an event. -/

namespace Sys2Proof.Proofs.WholeMachine
open Sys2Proof Sys2Proof.Machine Sys2Proof.Laws Sys2Proof.Proofs.ChannelAllocator Sys2Proof.Proofs.Lifecycle
  Sys2Proof.Proofs.Commands Sys2Proof.Proofs.Leases
open Relation (ReflTransGen)
open Function (update update_apply)
open Claims (givenBack)

/-! ### Owners and entries -/

/-- The pool-lease invariant, of what each owner holds and the pool. -/
def Exclusive (held : Owner → Option Nat) (p : List Bool) : Prop :=
  (∀ o i, held o = some i → poolTaken p i = true) ∧ ∀ o o' i, held o = some i → held o' = some i → o = o'

theorem poolLeaseInv_iff (s : State) : PoolLeaseInv s ↔ Exclusive s.heldBy s.pool := Iff.rfl

section
variable {held : Owner → Option Nat} {p : List Bool} (h : Exclusive held p)
include h

/-- Marking an entry Taken, which no lease need hold. -/
theorem exclusive_set_true (a : Nat) : Exclusive held (p.set a true) := by
  obtain ⟨htaken, hone⟩ := h
  refine ⟨fun o i hi => ?_, hone⟩
  rw [poolTaken_set, htaken o i hi, ite_self]

/-- Freeing an entry that no lease holds. -/
theorem exclusive_set_false {a : Nat} (ha : ∀ o, held o ≠ some a) : Exclusive held (p.set a false) := by
  obtain ⟨htaken, hone⟩ := h
  refine ⟨fun o i hi => ?_, hone⟩
  have hne : ¬ (a = i ∧ i < p.length) := fun ⟨heq, _⟩ => ha o (heq ▸ hi)
  rw [poolTaken_set, if_neg hne]
  exact htaken o i hi

/-- Disowning. -/
theorem exclusive_disown (o : Owner) : Exclusive (update held o none) p := by
  obtain ⟨htaken, hone⟩ := h
  have hold : ∀ o' i, update held o none o' = some i → held o' = some i := by
    intro o' i hi
    rw [update_apply] at hi
    split at hi
    · cases hi
    · exact hi
  exact ⟨fun o' i hi => htaken o' i (hold o' i hi), fun o' o'' i h' h'' => hone o' o'' i (hold o' i h') (hold o'' i h'')⟩

/-- An owner gives back what it holds, which is nobody else's. -/
theorem exclusive_givenBack {o : Owner} {L : Lease} (hL : held o = L.held) :
    Exclusive (update held o none) (givenBack L p) := by
  have hdisowned := exclusive_disown h o
  cases ha : L.held with
  | none => simpa [givenBack, ha] using hdisowned
  | some a =>
    rw [givenBack, ha]
    refine exclusive_set_false hdisowned fun o' ho' => ?_
    rw [update_apply] at ho'
    split at ho'
    · cases ho'
    · next ho => exact ho (h.2 o' o a ho' (hL.trans ha))

/-- An owner takes a Free entry: nobody holds it. -/
theorem exclusive_take {a : Nat} (o : Owner) (ha : p[a]? = some false) :
    Exclusive (update held o (some a)) (p.set a true) := by
  obtain ⟨hlt, -⟩ := List.getElem?_eq_some_iff.mp ha
  have hfree : ∀ o', held o' ≠ some a := by
    intro o' ho'
    rw [poolTaken_eq_true.mp (h.1 o' a ho')] at ha
    contradiction
  obtain ⟨htaken, hone⟩ := exclusive_set_true h a
  refine ⟨fun o' i hi => ?_, fun o' o'' i h' h'' => ?_⟩
  · rw [update_apply] at hi
    split at hi
    · obtain rfl := Option.some.inj hi
      rw [poolTaken_set, if_pos ⟨rfl, hlt⟩]
    · exact htaken o' i hi
  · rw [update_apply] at h' h''
    split at h' <;> split at h''
    · next ho' ho'' => exact ho'.trans ho''.symm
    · exact absurd (h''.trans h'.symm) (hfree o'')
    · exact absurd (h'.trans h''.symm) (hfree o')
    · exact hone o' o'' i h' h''

end

/-! ### The leases of an instance, step by step -/

/-- Instance `k` holds these two, every other owner what it did. -/
def withLeases (held : Owner → Option Nat) (k : InstId) (tx rx : Option Nat) : Owner → Option Nat :=
  update (update held (.tx k) tx) (.rx k) rx

section
variable {held : Owner → Option Nat} {k : InstId} {tx rx : Option Nat} {L : Lease} {p q : List Bool}

theorem update_withLeases_tx (v : Option Nat) : update (withLeases held k tx rx) (.tx k) v = withLeases held k v rx := by
  rw [withLeases, Function.update_comm (by simp), Function.update_idem, withLeases]

theorem update_withLeases_rx (v : Option Nat) : update (withLeases held k tx rx) (.rx k) v = withLeases held k tx v :=
  Function.update_idem ..

theorem withLeases_tx : withLeases held k tx rx (.tx k) = tx := by simp [withLeases]

theorem withLeases_rx : withLeases held k tx rx (.rx k) = rx := by simp [withLeases]

theorem exclusive_txGivenBack (h : Exclusive (withLeases held k L.held rx) p) :
    Exclusive (withLeases held k none rx) (givenBack L p) := by
  rw [← update_withLeases_tx]
  exact exclusive_givenBack h withLeases_tx

theorem exclusive_rxGivenBack (h : Exclusive (withLeases held k tx L.held) p) :
    Exclusive (withLeases held k tx none) (givenBack L p) := by
  rw [← update_withLeases_rx]
  exact exclusive_givenBack h withLeases_rx

theorem exclusive_txTaken {a : Nat} (h : Exclusive (withLeases held k tx rx) p) (ha : p[a]? = some false) :
    Exclusive (withLeases held k (some a) rx) (p.set a true) := by
  rw [← update_withLeases_tx]
  exact exclusive_take h _ ha

theorem exclusive_rxTaken {a : Nat} (h : Exclusive (withLeases held k tx rx) p) (ha : p[a]? = some false) :
    Exclusive (withLeases held k tx (some a)) (p.set a true) := by
  rw [← update_withLeases_rx]
  exact exclusive_take h _ ha

variable {c : Config} {i j : Instance}

theorem resumed_exclusive {rs : List Result} (h : Resumed c k i p j q rs)
    (hx : Exclusive (withLeases held k i.tx.held i.rx.held) p) :
    Exclusive (withLeases held k j.tx.held j.rx.held) q := by
  cases h with
  | beginTxTaken hb ha => exact exclusive_txTaken (exclusive_txGivenBack hx) ha.2.2.1
  | beginRxTaken hb ha => exact exclusive_rxTaken (exclusive_rxGivenBack hx) ha.2.2.1
  | beginTxNone | undoTx | endTx => exact exclusive_txGivenBack hx
  | beginRxNone | undoRx | endRx => exact exclusive_rxGivenBack hx
  | configured | notConfigured | endTransmit | endReset => exact hx

theorem reached_exclusive {x y : Instance × List Bool} (h : ReflTransGen (Advance c k) x y)
    (hx : Exclusive (withLeases held k x.1.tx.held x.1.rx.held) x.2) :
    Exclusive (withLeases held k y.1.tx.held y.1.rx.held) y.2 := by
  induction h with
  | refl => exact hx
  | tail _ hstep ih =>
    obtain ⟨rs, hstep⟩ := hstep
    exact resumed_exclusive hstep ih

/-- No command touches the leases. -/
theorem commanded_leases {instr : Instr} (h : Commanded c k i instr j) : j.tx = i.tx ∧ j.rx = i.rx := by
  cases h with
  | write hc hh hg => cases hg <;> exact ⟨rfl, rfl⟩
  | special hc hg => cases hg <;> exact ⟨rfl, rfl⟩
  | _ => exact ⟨rfl, rfl⟩

end

/-! ### The owners of a state -/

section
variable {s t : State} {e : Event} {k : InstId} {j : Instance} {p : List Bool} {rs : List Result}

theorem heldBy_part : (part s k j p rs).heldBy = withLeases s.heldBy k j.tx.held j.rx.held := by
  funext o
  cases o with
  | tx k' =>
    by_cases hk : k' = k
    · subst hk
      rw [withLeases_tx, State.heldBy, part_inst_same]
    · simp [withLeases, State.heldBy, part_inst_other _ _ _ _ hk, hk]
  | rx k' =>
    by_cases hk : k' = k
    · subst hk
      rw [withLeases_rx, State.heldBy, part_inst_same]
    · simp [withLeases, State.heldBy, part_inst_other _ _ _ _ hk, hk]
  | standalone l => simp [withLeases, State.heldBy]

theorem withLeases_heldBy : withLeases s.heldBy k (s.inst k).tx.held (s.inst k).rx.held = s.heldBy := by
  have htx : update s.heldBy (.tx k) (s.inst k).tx.held = s.heldBy := Function.update_eq_self _ _
  rw [withLeases, htx]
  exact Function.update_eq_self _ _

theorem heldBy_setLease (l : LeaseId) (v : LeaseSlot) :
    (s.setLease l v).heldBy = update s.heldBy (.standalone l) v.lease.held := by
  funext o
  cases o with
  | tx k => rfl
  | rx k => rfl
  | standalone l' =>
    by_cases hl : l' = l
    · subst hl
      simp [State.heldBy]
    · simp [State.heldBy, lease_setLease_other s l l' v hl, hl]

/-- What the operations of a lease write: the pool, that lease, a result. -/
theorem poolLeaseInv_lease_writes {l : LeaseId} {v : LeaseSlot} {r : Result} :
    PoolLeaseInv (((s.setPool p).setLease l v).ret r) ↔ Exclusive (update s.heldBy (.standalone l) v.lease.held) p := by
  have hheld : (((s.setPool p).setLease l v).ret r).heldBy = update s.heldBy (.standalone l) v.lease.held :=
    heldBy_setLease (s := s.setPool p) l v
  rw [poolLeaseInv_iff, hheld]
  rfl

theorem poolLeaseInv_leaseRelease (l : LeaseId) (destroy : Bool) (hinv : PoolLeaseInv s) :
    PoolLeaseInv (leaseReleaseState l destroy (s.lease l) s) := by
  rw [leaseReleaseState, leaseRelease_eq_givenBack]
  exact poolLeaseInv_lease_writes.mpr (exclusive_givenBack hinv rfl)

theorem poolLeaseInv_leaseAcquire (l : LeaseId) (first last : Nat) (hinv : PoolLeaseInv s) :
    PoolLeaseInv (leaseAcquireState l first last (s.lease l) s) := by
  have hback : Exclusive (update s.heldBy (.standalone l) none) (givenBack (s.lease l).lease s.pool) :=
    exclusive_givenBack hinv rfl
  rcases lowestFree_or_allTaken (givenBack (s.lease l).lease s.pool) first last with ⟨a, ha⟩ | ha
  · rw [leaseAcquireState, leaseAcquire_of_lowestFree ha]
    refine poolLeaseInv_lease_writes.mpr ?_
    simpa using exclusive_take hback (.standalone l) ha.2.2.1
  · rw [leaseAcquireState, leaseAcquire_of_allTaken ha]
    exact poolLeaseInv_lease_writes.mpr hback

theorem poolLeaseInv_acquireIndex (first last : Nat) (hinv : PoolLeaseInv s) :
    PoolLeaseInv (acquireIndex first last s) := by
  rcases lowestFree_or_allTaken s.pool first last with ⟨a, ha⟩ | ha
  · rw [acquireIndex_of_lowestFree ha]
    exact exclusive_set_true hinv a
  · rw [acquireIndex_of_allTaken ha]
    exact hinv

/-- The steps of a `begin` or an `end`, from an instance that holds what it holds in the state. -/
theorem poolLeaseInv_part {i : Instance} (hinv : PoolLeaseInv s)
    (hr : ReflTransGen (Advance (s.instCfg k) k) (i, s.pool) (j, p)) (htx : i.tx = (s.inst k).tx)
    (hrx : i.rx = (s.inst k).rx) : PoolLeaseInv (part s k j p rs) := by
  rw [poolLeaseInv_iff, heldBy_part]
  refine reached_exclusive hr ?_
  rwa [htx, hrx, withLeases_heldBy]

theorem effect_poolLeaseInv (h : Effect s e t) (hinv : PoolLeaseInv s)
    (hduty : ∀ index, e.instr = some (.allocRelease index) → ∀ o, s.heldBy o ≠ some index) : PoolLeaseInv t := by
  cases h with
  | logs => exact hinv
  | acquire first last => exact poolLeaseInv_acquireIndex first last hinv
  | release hi =>
    rw [poolRelease_eq_set]
    exact exclusive_set_false hinv (hduty _ hi)
  | leaseAcquire first last => exact poolLeaseInv_leaseAcquire _ first last hinv
  | leaseRelease destroy => exact poolLeaseInv_leaseRelease _ destroy hinv
  | leaseDisown => exact poolLeaseInv_lease_writes.mpr (exclusive_disown hinv _)
  | command r hi hb hc =>
    obtain ⟨htx, hrx⟩ := commanded_leases hc
    exact poolLeaseInv_part hinv .refl htx hrx
  | beginning rs hi hb hidle hr => exact poolLeaseInv_part hinv hr rfl rfl
  | ending rs hi hb hr => exact poolLeaseInv_part hinv hr rfl rfl
  | resumed rs he hr => exact poolLeaseInv_part hinv (.single hr) rfl rfl

end

/-- Settles O49, effect by effect. -/
theorem everyOwningStepKeepsLeasesExclusive : Obligations.EveryOwningStepKeepsLeasesExclusive := by
  intro s t hinv hkeeps h
  obtain ⟨-, rfl | ⟨e, rest, -, hi, h⟩⟩ := step_effect h
  · exact hinv
  · exact effect_poolLeaseInv h hinv fun index hindex => hkeeps index (hi.trans hindex)

end Sys2Proof.Proofs.WholeMachine

/-! PROOFS. Construction (rules R9, R260, R261): the table of the configurations of their own, and every object at its reset
value. -/

namespace Sys2Proof.Proofs.Construction
open Sys2Proof Sys2Proof.Machine Sys2Proof.Laws Sys2Proof.Proofs.Step Sys2Proof.Proofs.WholeMachine

/-! ### The table of configurations -/

theorem mem_tablePut {α : Type} [DecidableEq α] {d a : α} {name : Nat} {t : List (Nat × α)} {e : Nat × α}
    (h : e ∈ tablePut d name a t) : e = (name, a) ∨ e ∈ t := by
  unfold tablePut at h
  split at h
  · exact .inr (List.mem_filter.mp h).1
  · exact (mem_tableInsert h).imp_right fun h => (List.mem_filter.mp h).1

section
variable {c : Config} {own : List (Nat × Config)}

/-- The configurations in the table are those given. -/
theorem mem_instCfgs_initialWith {e : Nat × Config} (h : e ∈ (State.initialWith c own).instCfgs) : e ∈ own := by
  have hfold : ∀ t, e ∈ own.foldl (fun t e => tablePut c e.1 e.2 t) t → e ∈ own ∨ e ∈ t := by
    clear h
    induction own with
    | nil => exact fun _ h => .inr h
    | cons e' rest ih =>
      intro t h
      rcases ih _ h with h | h
      · exact .inl (List.mem_cons_of_mem _ h)
      · exact (mem_tablePut h).imp_left fun h => List.mem_cons.mpr (.inl h)
  exact (hfold [] h).resolve_right List.not_mem_nil

/-- An instance that is given none has the system's. -/
theorem instCfg_initialWith_of_absent {k : InstId} (h : ∀ e ∈ own, e.1 ≠ k) : (State.initialWith c own).instCfg k = c := by
  have hfold : ∀ t, tableFind c k (own.foldl (fun t e => tablePut c e.1 e.2 t) t) = tableFind c k t := by
    induction own with
    | nil => exact fun _ => rfl
    | cons e rest ih =>
      intro t
      rw [List.foldl_cons, ih fun e' he' => h e' (List.mem_cons_of_mem _ he')]
      exact tableFind_put_other c c e.2 (h e List.mem_cons_self).symm t
  exact hfold []

theorem instCfg_initialWith_singleton (c d : Config) (k : InstId) : (State.initialWith c [(k, d)]).instCfg k = d :=
  tableFind_put_same c d k []

/-! ### The invariants -/

theorem sound_initial (hc : configWf c = true) : (Instance.initial c).sound c := by
  obtain ⟨-, -, hdivisor, -⟩ := (configWf_iff c).mp hc
  exact sound_iff.mpr ⟨rfl, rfl, rfl, hdivisor, cacheSound_initial, rfl, rfl⟩

theorem schedulerInv_initialWith (hc : configWf c = true)
    (hown : ∀ e ∈ own, configWf e.2 = true ∧ e.2.poolSize = c.poolSize) : SchedulerInv (State.initialWith c own) := by
  have hconfigured : (State.initialWith c own).configured = true :=
    (configured_iff _).mpr ⟨hc, fun e he => hown e (mem_instCfgs_initialWith he)⟩
  exact ⟨hconfigured, fun k => sound_initial (configWf_instCfg hconfigured k)⟩

theorem heldBy_initialWith (o : Owner) : (State.initialWith c own).heldBy o = none := by
  cases o <;> rfl

theorem poolLeaseInv_initialWith : PoolLeaseInv (State.initialWith c own) := by
  have hnone : ∀ o i, (State.initialWith c own).heldBy o ≠ some i := by
    intro o i h
    rw [heldBy_initialWith] at h
    cases h
  exact ⟨fun o i h => absurd h (hnone o i), fun o _ i h => absurd h (hnone o i)⟩

theorem construct_next {s : State} (h : State.construct c own = .next s) :
    (configWf c = true ∧ ∀ e ∈ own, configWf e.2 = true ∧ e.2.poolSize = c.poolSize) ∧ s = State.initialWith c own := by
  unfold State.construct at h
  split at h
  · next hwf =>
    cases h
    exact ⟨(constructible_iff c own).mp hwf, rfl⟩
  · cases h

end

/-- Settles O50: what is constructed is the reset state, with the configurations given. -/
theorem constructionIsSafe : Obligations.ConstructionIsSafe := by
  refine ⟨fun c own s h => ?_, rfl⟩
  obtain ⟨⟨hc, hown⟩, rfl⟩ := construct_next h
  refine ⟨⟨wf_initialWith c own, schedulerInv_initialWith hc hown, poolLeaseInv_initialWith⟩, rfl, List.length_replicate,
    fun i hi => List.getElem?_replicate_of_lt hi, fun l => ⟨rfl, rfl⟩,
    fun k => ⟨rfl, rfl, rfl, rfl, rfl, rfl, rfl, rfl, rfl, rfl, rfl, rfl⟩,
    fun k => instCfg_initialWith_of_absent, ?_⟩
  rintro k d rfl
  exact instCfg_initialWith_singleton c d k

end Sys2Proof.Proofs.Construction
